-- ==== Sys2Proof/Word.lean ====
section
/-! DEFINITION. The word types of the TMCL frame codec: the byte, the 32-bit pattern of a value, and the 9-byte frame. -/

namespace Sys2Proof

/-- A byte, `u8` of 00_scope.md R8. -/
abbrev Byte := BitVec 8

/-- A 32-bit pattern, `u32` of 00_scope.md R8. -/
abbrev Word32 := BitVec 32

/-- A 9-byte frame `f` (`FRAME_LEN`, 00_scope.md R6), with `bi` for the spec's `f[i]` (00_scope.md R9, 10_state.md R29).
Both formats, `CMD` (30_encoding.md R54) and `REPLY` (R55), are frames. -/
structure Frame where
  b0 : Byte
  b1 : Byte
  b2 : Byte
  b3 : Byte
  b4 : Byte
  b5 : Byte
  b6 : Byte
  b7 : Byte
  b8 : Byte
  deriving DecidableEq, Repr

end Sys2Proof
end

