-- ==== Sys2Proof/Config.lean ====
section
/-! DEFINITION. What an implementation or the environment fixes (00_scope.md R6, R7; 10_state.md R26), and the free values:
constants without a body, of which nothing can be proved. -/

namespace Sys2Proof

/-- What one `write` of a 9-byte frame comes to: the draw `w` of SEND (40_serializer.md R68, 92_eei_decisions.md D4). -/
inductive WriteDraw where
  /-- `Full`: the channel accepts all 9 bytes. -/
  | full
  /-- `Short(n)`, `n` in 0..8: the channel accepts the first `n` bytes and says so. -/
  | short (n : Fin 9)
  /-- `Fail(k)`, `k` in 0..9: the write fails after its first `k` bytes. -/
  | fail (k : Fin 10)
  deriving DecidableEq, Repr, Inhabited

/-- The line's parity setting (10_state.md R16). -/
inductive Parity where
  | noParity
  | odd
  | even
  deriving DecidableEq, Repr, Inhabited

/-- The line configuration, set outside the block and read by none of its rules
(10_state.md R16, R26; 70_reset_and_hazards.md R106). -/
structure LineConfig where
  /-- `BAUD`, caller-specified (00_scope.md R7). -/
  baud : Nat
  dataBits : Nat
  parity : Parity
  stopBits : Nat
  binaryMode : Bool
  /-- Any software or hardware flow control other than the RTS toggle. -/
  otherFlowControl : Bool
  rtsToggledOnSend : Bool
  /-- Reads return at once with whatever bytes are there. -/
  readReturnsAtOnce : Bool
  deriving DecidableEq, Repr

/-- `STATUS_OK` (00_scope.md R6): success to the caller, never read by the block (30_encoding.md R58). -/
def Config.statusOk : Byte := 100#8

/-- `WRITE_ALWAYS_FULL`, default `false` (92_eei_decisions.md D4). -/
def Config.writeAlwaysFull : Bool := false

/-- `READ_CAN_FAIL`, default `false` (60_exceptions.md R91). -/
def Config.readCanFail : Bool := false

/-- `RX0`, the bytes in the receive buffer at the start of a run: any byte sequence (10_state.md R28). Log entry 6. -/
opaque Config.rx0 : List Byte

/-- `RX_CAPACITY`: how many bytes the receive buffer holds, `none` for unbounded (00_scope.md R7). Log entry 13. -/
opaque Config.rxCapacity : Option Nat

/-- `BAUD` (00_scope.md R7). Log entry 18. -/
opaque Config.baud : Nat

/-- The channel's `n`-th draw, where it is a write (40_serializer.md R68). Log entry 9. -/
opaque Config.writeDraw : Nat → WriteDraw

/-- Whether the channel's `n`-th draw, where it is a read that can fail, fails (60_exceptions.md R91). Log entry 10. -/
opaque Config.readFails : Nat → Bool

/-- The configuration 70_reset_and_hazards.md R106 asks for: 8 data bits, no parity, 1 stop bit, binary framing, no flow
control but the RTS toggle, reads that return at once. -/
def Config.line : LineConfig where
  baud := Config.baud
  dataBits := 8
  parity := .noParity
  stopBits := 1
  binaryMode := true
  otherFlowControl := false
  rtsToggledOnSend := true
  readReturnsAtOnce := true

end Sys2Proof
end

