-- ==== Sys2Proof/Syntax.lean ====
section
/-! DEFINITION. The requests a host can make: the record `REQ` as the host hands it over, and the four operations of
spec/opcode_table.json, one constructor a row. -/

namespace Sys2Proof

/-- A request in format `REQ` (30_encoding.md R46, R47): separate fields, in types wider than the fields, so that a value
outside a field's range can be written down and met as R50 to R53 say. An operation ignores the fields it does not read (R49). -/
structure Request where
  op : Nat
  address : Nat
  command : Nat
  type : Nat
  motor : Nat
  value : Int
  frameIn : List Byte
  deriving DecidableEq, Repr

/-- The four operations (30_encoding.md R48), each with the operands it reads (R47). The operands are as the host hands them
over: the four 8-bit fields are reduced modulo 256 when they are used (R50), `value` may lie outside the i32 range (R51) and
`frameIn` may have a length other than 9 (R52). -/
inductive Instr where
  /-- `op = 00`, 40_serializer.md R66. -/
  | encode (address command type motor : Nat) (value : Int)
  /-- `op = 01`, 40_serializer.md R68. -/
  | send (address command type motor : Nat) (value : Int)
  /-- `op = 10`, 41_deserializer.md R78. -/
  | check (frameIn : List Byte)
  /-- `op = 11`, 41_deserializer.md R79. -/
  | poll
  deriving DecidableEq, Repr

end Sys2Proof
end

