-- ==== Sys2Proof/WellFormed.lean ====
section
/-! DEFINITION. The shape checks of a request (60_exceptions.md R93, R94 step 1). The four 8-bit fields are not checked:
they are reduced, never refused (30_encoding.md R50). -/

namespace Sys2Proof

/-- `v` is an `i32` (00_scope.md R8): -2147483648..2147483647. -/
def inI32 (v : Int) : Bool := decide (-2147483648 ≤ v) && decide (v ≤ 2147483647)

/-- `op` is one of the four codes (30_encoding.md R53). -/
def opInRange (op : Nat) : Bool := decide (op < 4)

/-- `frame_in` has exactly 9 bytes (30_encoding.md R52). -/
def isFrameLength (bs : List Byte) : Bool := bs.length == 9

/-- The operation's operands are in their declared ranges: no shape refusal of 60_exceptions.md R93 applies to it. -/
def Instr.wf : Instr → Bool
  | .encode _ _ _ _ value => inI32 value
  | .send _ _ _ _ value => inI32 value
  | .check frameIn => isFrameLength frameIn
  | .poll => true

/-- The same of a request: the checks are those of the operation its `op` selects (60_exceptions.md R94 step 1). -/
def Request.wf (q : Request) : Bool :=
  match q.op with
  | 0 => inI32 q.value
  | 1 => inI32 q.value
  | 2 => isFrameLength q.frameIn
  | op => opInRange op

end Sys2Proof
end

