-- ==== Sys2Proof/Machine/Operands.lean ====
section
/-! DEFINITION. Operand assembly (30_encoding.md R50 to R52): the 8-bit reduction, the two's-complement conversions, the byte
order of a value, and a frame as a sequence of bytes. -/

namespace Sys2Proof

/-- An 8-bit field taken as it stands: reduced modulo 256, never refused (30_encoding.md R50). -/
def toU8 (n : Nat) : Byte := BitVec.ofNat 8 n

/-- `u32_of(v) = v mod 2^32` (00_scope.md R9). -/
def u32Of (v : Int) : Word32 := BitVec.ofInt 32 v

/-- `sext_32(u)`: `u` below 2^31, else `u - 2^32` (00_scope.md R9). -/
def sext32 (u : Word32) : Int :=
  if u.toNat < 2147483648 then (u.toNat : Int) else (u.toNat : Int) - 4294967296

/-- The byte `u[lo+7:lo]` of a 32-bit pattern (00_scope.md R8). -/
def byteAt (u : Word32) (lo : Nat) : Byte := u.extractLsb' lo 8

/-- The big-endian reassembly `f[4]*2^24 + f[5]*2^16 + f[6]*2^8 + f[7]` (20_memory.md R32, 41_deserializer.md R74). -/
def joinBytes (b4 b5 b6 b7 : Byte) : Word32 :=
  BitVec.ofNat 32 (b4.toNat * 16777216 + b5.toNat * 65536 + b6.toNat * 256 + b7.toNat)

/-- The frame's bytes in index order 0..8 (20_memory.md R31). -/
def Frame.toList (f : Frame) : List Byte := [f.b0, f.b1, f.b2, f.b3, f.b4, f.b5, f.b6, f.b7, f.b8]

/-- The frame whose byte `i` is the sequence's byte `i`. Every use is on 9 bytes (30_encoding.md R52, 41_deserializer.md R79). -/
def Frame.ofList (bs : List Byte) : Frame where
  b0 := bs.getD 0 0
  b1 := bs.getD 1 0
  b2 := bs.getD 2 0
  b3 := bs.getD 3 0
  b4 := bs.getD 4 0
  b5 := bs.getD 5 0
  b6 := bs.getD 6 0
  b7 := bs.getD 7 0
  b8 := bs.getD 8 0

/-- The operation with its 8-bit fields reduced modulo 256 (30_encoding.md R50). -/
def Instr.reduce : Instr → Instr
  | .encode a c t m v => .encode (a % 256) (c % 256) (t % 256) (m % 256) v
  | .send a c t m v => .send (a % 256) (c % 256) (t % 256) (m % 256) v
  | .check bs => .check bs
  | .poll => .poll

end Sys2Proof
end

