-- ==== Sys2Proof/Decode.lean ====
section
/-! DEFINITION. Decoding a request (30_encoding.md R45 to R53), total on any record and on any bytes, and the encoder.

The spec positions only `op`, in bits [1:0] of a notional request word (R46). The rest of the layout is the model's own
(log entry 1): byte 0 is `op`, bytes 1..4 are address, command, type and motor, bytes 5..8 are `value` big-endian, bytes 9..17
are `frame_in`. Byte 0 is an `op` field wider than 2 bits, so a value of 4 or more is refused and not reduced (R53). -/

namespace Sys2Proof

/-- Why a request or a byte sequence is no operation. -/
inductive DecodeError where
  /-- Fewer than 18 bytes: no whole request. Safe: it stops the decoder only. -/
  | truncated (available : Nat)
  /-- `op` is 4 or more (30_encoding.md R53): `OpOutOfRange` of 60_exceptions.md R93. Safe. -/
  | opOutOfRange (op : Nat)
  deriving DecidableEq, Repr

/-- The operation a request asks for (30_encoding.md R48), with the fields that operation reads (R47) and no other (R49). -/
def Request.decode (q : Request) : Except DecodeError Instr :=
  match q.op with
  | 0 => .ok (.encode q.address q.command q.type q.motor q.value)
  | 1 => .ok (.send q.address q.command q.type q.motor q.value)
  | 2 => .ok (.check q.frameIn)
  | 3 => .ok .poll
  | n + 4 => .error (.opOutOfRange (n + 4))

/-- The request record of 18 bytes in the model's layout (log entry 1). -/
def Request.ofLayout (bs : List Byte) : Request where
  op := (bs.getD 0 0).toNat
  address := (bs.getD 1 0).toNat
  command := (bs.getD 2 0).toNat
  type := (bs.getD 3 0).toNat
  motor := (bs.getD 4 0).toNat
  value := sext32 (joinBytes (bs.getD 5 0) (bs.getD 6 0) (bs.getD 7 0) (bs.getD 8 0))
  frameIn := (Frame.ofList (bs.drop 9)).toList

/-- The decoder on bytes: the operation and the bytes after its 18, or the reason there is none. -/
def decodeBytes (bs : List Byte) : Except DecodeError (Instr × List Byte) :=
  if bs.length < 18 then .error (.truncated bs.length)
  else
    match (Request.ofLayout bs).decode with
    | .ok i => .ok (i, bs.drop 18)
    | .error e => .error e

/-- The 18 bytes of a request record in the model's layout (log entry 1). -/
def Request.toLayout (q : Request) : List Byte :=
  [toU8 q.op, toU8 q.address, toU8 q.command, toU8 q.type, toU8 q.motor,
    byteAt (u32Of q.value) 24, byteAt (u32Of q.value) 16, byteAt (u32Of q.value) 8, byteAt (u32Of q.value) 0]
    ++ (Frame.ofList q.frameIn).toList

/-- The operation as a request record, its `op` code from 30_encoding.md R48 and zeros in the fields it does not read (R49). -/
def Instr.toRequest : Instr → Request
  | .encode a c t m v => ⟨0, a, c, t, m, v, List.replicate 9 0⟩
  | .send a c t m v => ⟨1, a, c, t, m, v, List.replicate 9 0⟩
  | .check bs => ⟨2, 0, 0, 0, 0, 0, bs⟩
  | .poll => ⟨3, 0, 0, 0, 0, 0, List.replicate 9 0⟩

/-- The encoder: the bytes of an operation. -/
def encode (i : Instr) : List Byte := i.toRequest.toLayout

/-- The low `n` bytes of `w`, the least significant first: bit 0 of `w` is bit 0 of the first byte. -/
def bytesOfWord : Nat → Nat → List Byte
  | 0, _ => []
  | n + 1, w => BitVec.ofNat 8 w :: bytesOfWord n (w / 256)

/-- The 18 bytes of a request of which spec/opcode_table.json gives the low `nbits` bits; every bit above is zero. -/
def tableBytes (nbits w : Nat) : List Byte := bytesOfWord 18 (w % 2 ^ nbits)

/-- The operation the decoder reads from a word of spec/opcode_table.json. -/
def decodeTableWord (nbits w : Nat) : Option Instr :=
  match decodeBytes (tableBytes nbits w) with
  | .ok (i, _) => some i
  | .error _ => none

end Sys2Proof
end

