-- ==== Sys2Proof/Machine/State.lean ====
section
/-! DEFINITION. The machine's state as plain data (10_state.md R29), the responses, the host's statements, the outside agents'
turns, the stops, and the state after reset (R28). -/

namespace Sys2Proof.Machine

/-- `Reply` (00_scope.md R11, 10_state.md R29): `value` is the signed integer, an `i32`. -/
structure Reply where
  replyAddress : Byte
  status : Byte
  value : Int
  deriving DecidableEq, Repr

/-- `Result` (00_scope.md R11). -/
inductive Result where
  | ok (reply : Reply)
  | notReady
  | checksumError
  deriving DecidableEq, Repr

/-- `SendResult` (10_state.md R18): `Sent(n)`, `n` in 0..9, or `WriteFailed`. -/
inductive SendResult where
  | sent (n : Fin 10)
  | writeFailed
  deriving DecidableEq, Repr

/-- What an operation answers the host (10_state.md R18). -/
inductive Response where
  /-- ENCODE's frame. -/
  | frame (f : Frame)
  /-- SEND's result. -/
  | send (r : SendResult)
  /-- CHECK's and POLL's result. -/
  | result (r : Result)
  deriving DecidableEq, Repr

/-- The tags a host can branch on (30_encoding.md R60). -/
inductive Tag where
  /-- `OK` -/
  | ok
  /-- `NOTREADY` -/
  | notReady
  /-- `CKERR` -/
  | ckErr
  /-- `SENT9`: `Sent(9)` -/
  | sent9
  /-- `SHORT`: `Sent(n)` with `n < 9` -/
  | short
  /-- `WFAIL` -/
  | wFail
  deriving DecidableEq, Repr

/-- A statement of a host program, its labels resolved to statement indexes (30_encoding.md R60). -/
inductive Stmt where
  /-- An operation statement, as its `REQ` record. -/
  | request (q : Request)
  /-- `BR.<tag> L` -/
  | br (tag : Tag) (target : Nat)
  /-- `JMP L` -/
  | jmp (target : Nat)
  /-- `HALT` -/
  | halt
  deriving DecidableEq, Repr

/-- Whose turn a step is (10_state.md R23 to R25; log entry 8). All but `host` are events of agents outside the block, each
with the data the environment draws for it. -/
inductive Turn where
  /-- The host runs the statement at `hpc`. -/
  | host
  /-- `Arrive(bytes)` (10_state.md R24); `keep` says which bytes survive if the buffer would overflow (log entry 13). -/
  | arrive (bytes : List Byte) (keep : List Bool)
  /-- The external transport layer opens the channel (10_state.md R22). -/
  | openChannel
  /-- The external transport layer closes the channel (10_state.md R22). -/
  | closeChannel
  /-- A second agent issues a SEND or a POLL on the channel (60_exceptions.md R97). -/
  | secondAgent
  /-- A reset between operations; `rx0` is what the channel then holds (70_reset_and_hazards.md R105; log entry 16). -/
  | reset (rx0 : List Byte)
  deriving DecidableEq, Repr

/-- `Channel` (10_state.md R20 to R22, R29): the spec's `rx`, `tx` and `open`. -/
structure Channel where
  /-- The receive buffer, oldest byte first. -/
  rx : List Byte
  /-- Every byte written since the model started, in write order. -/
  tx : List Byte
  isOpen : Bool
  deriving DecidableEq, Repr

/-- The channel's draws to come (00_scope.md R7). The step takes the head of a list; past its end the draw is a free value,
an opaque constant of Config applied to `count`, the number of draws taken (log entries 9 and 10). The model's own field. -/
structure Draws where
  writes : List WriteDraw
  reads : List Bool
  count : Nat
  deriving DecidableEq, Repr

/-- The parameters of a run (00_scope.md R7, 10_state.md R26). No step writes them (log entry 7). -/
structure Launch where
  /-- `RX_CAPACITY`; `none` is unbounded. -/
  rxCapacity : Option Nat
  /-- `WRITE_ALWAYS_FULL` -/
  writeAlwaysFull : Bool
  /-- `READ_CAN_FAIL` -/
  readCanFail : Bool
  line : LineConfig
  /-- The host program's text. -/
  program : List Stmt
  deriving DecidableEq, Repr

/-- The whole state: the spec's record (10_state.md R29), the host's `r` (30_encoding.md R60), the parameters (R26), and the
model's own `draws` and `agenda`. The block contributes no field (R14). -/
structure State where
  chan : Channel
  hpc : Nat
  refused : Bool
  /-- The host's `r`, the last response; no operation reads it (10_state.md R18). -/
  resp : Option Response
  launch : Launch
  draws : Draws
  /-- Whose turns come next; the empty agenda is the host's turn. -/
  agenda : List Turn
  deriving DecidableEq, Repr

/-- Why the machine stops. The block itself has no fault (60_exceptions.md R89). -/
inductive Fault where
  /-- POLL, under `READ_CAN_FAIL = true` only: the channel's read failed after 9 bytes were reported, and "a POLL with
  `len(rx) >= 9` may instead have no step (stuck)" (60_exceptions.md R91). Safe: there is no next state to prove anything of. -/
  | readFailed
  deriving DecidableEq, Repr

/-- The refusal reasons, the closed list of 60_exceptions.md R93. A refusal with one of these reasons is a next state in which
`refused` is set and nothing else changed (R92), so no step answers with `Outcome.refused` (log entry 4). Every one is safe:
a run that has set `refused` satisfies no claim. -/
inductive Refusal where
  /-- An operation without a meaning. No arm answers it: all four operations are modelled. Safe. -/
  | notModelled (mnemonic : String)
  /-- `op >= 4` (30_encoding.md R53). -/
  | opOutOfRange
  /-- ENCODE or SEND with `value` outside the i32 range (30_encoding.md R51). -/
  | valueOutOfRange
  /-- CHECK with a `frame_in` of a length other than 9 (30_encoding.md R52). -/
  | frameLength
  /-- SEND or POLL with the channel closed (10_state.md R22). -/
  | channelClosed
  /-- A second agent's SEND or POLL on the channel (60_exceptions.md R97). -/
  | secondAgent
  deriving DecidableEq, Repr

/-- What comes of a request (60_exceptions.md R94): a response with the new channel and the draws left, or a refusal. -/
inductive Verdict where
  | respond (chan : Channel) (draws : Draws) (r : Response)
  | refuse (reason : Refusal)
  deriving DecidableEq, Repr

/-- The state at the start of a run with given parameters (10_state.md R28). `rx` holds what of `rx0` the buffer can hold
(log entry 6). -/
def State.start (launch : Launch) (rx0 : List Byte) (draws : Draws) (agenda : List Turn) : State where
  chan :=
    { rx := match launch.rxCapacity with
        | none => rx0
        | some capacity => rx0.take capacity
      tx := []
      isOpen := true }
  hpc := 0
  refused := false
  resp := none
  launch := launch
  draws := draws
  agenda := agenda

/-- The parameters at reset: the switches at their defaults, the open parameters free, no host program loaded (log entry 7). -/
def Launch.reset : Launch where
  rxCapacity := Config.rxCapacity
  writeAlwaysFull := Config.writeAlwaysFull
  readCanFail := Config.readCanFail
  line := Config.line
  program := []

/-- The state after reset (10_state.md R28, 70_reset_and_hazards.md R104). -/
def State.reset : State := State.start Launch.reset Config.rx0 ⟨[], [], 0⟩ []

end Sys2Proof.Machine
end

