-- ==== Sys2Proof/Machine/Ops.lean ====
section
/-! DEFINITION. The shared operations: the checksum, the channel's three primitives, the channel's draws, and how a verdict
becomes a next state.

There is no taking of an exception and no return from one: "The block has no exceptions, traps or faults" (60_exceptions.md
R89) and "no trap entry or trap return exists" (R96). What the spec has in their place is the refusal, `State.refuse` (R92).
There is no addressed memory (20_memory.md R30): the storage is the channel's two byte streams. -/

namespace Sys2Proof.Machine

/-- `sum8(s)`: the exact sum, reduced modulo 256 (00_scope.md R10). -/
def sum8 (s : List Byte) : Byte := BitVec.ofNat 8 (s.map BitVec.toNat).sum

/-- CHECKSUM: `sum8(f[0..8))`, unadjusted (40_serializer.md R63). -/
def checksum (f : Frame) : Byte := sum8 (f.toList.take 8)

/-- `RxAvail() = len(rx)`, the transport's `bytes_available` (10_state.md R20). -/
def Channel.rxAvail (c : Channel) : Nat := c.rx.length

/-- The transport's `read(n)`: the oldest `n` bytes of `rx`, or all if fewer, removed from it (10_state.md R20). -/
def Channel.read (c : Channel) (n : Nat) : List Byte × Channel := (c.rx.take n, { c with rx := c.rx.drop n })

/-- How many bytes of a 9-byte write reach `tx` (40_serializer.md R69). -/
def acceptedBytes : WriteDraw → Nat
  | .full => 9
  | .short n => n
  | .fail k => k

/-- What the write reports (40_serializer.md R68). -/
def writeResult : WriteDraw → SendResult
  | .full => .sent 9
  | .short n => .sent n.castSucc
  | .fail _ => .writeFailed

/-- The transport's `write` of a sequence under a draw: a prefix of it is appended to `tx` (40_serializer.md R68). -/
def Channel.write (c : Channel) (s : List Byte) (w : WriteDraw) : Channel :=
  { c with tx := c.tx ++ s.take (acceptedBytes w) }

/-- The channel's next write draw, a free value past the list's end (log entry 9). -/
def Draws.nextWrite (d : Draws) : WriteDraw :=
  match d.writes with
  | w :: _ => w
  | [] => Config.writeDraw d.count

/-- The draw SEND meets: always `Full` under `WRITE_ALWAYS_FULL` (40_serializer.md R68, 92_eei_decisions.md D4). -/
def writeDraw (l : Launch) (d : Draws) : WriteDraw := if l.writeAlwaysFull then .full else d.nextWrite

/-- The draws left after a write. -/
def Draws.afterWrite (d : Draws) : Draws := { d with writes := d.writes.tail, count := d.count + 1 }

/-- Whether the channel's next read fails, a free value past the list's end (log entry 10). -/
def Draws.nextReadFails (d : Draws) : Bool :=
  match d.reads with
  | b :: _ => b
  | [] => Config.readFails d.count

/-- The draws left after a read of 9 bytes: a read takes a draw only where it can fail (60_exceptions.md R91). -/
def drawsAfterRead (l : Launch) (d : Draws) : Draws :=
  if l.readCanFail then { d with reads := d.reads.tail, count := d.count + 1 } else d

/-- Whether a POLL has no step: the switch is on, the channel is open, 9 bytes are there, and the read fails
(60_exceptions.md R91). -/
def readStuck (l : Launch) (c : Channel) (d : Draws) : Bool :=
  l.readCanFail && (c.isOpen && (decide (9 ≤ c.rxAvail) && d.nextReadFails))

/-- Whether the buffer can hold `bs` (10_state.md R24). -/
def Launch.fits (l : Launch) (bs : List Byte) : Bool :=
  match l.rxCapacity with
  | none => true
  | some capacity => decide (bs.length ≤ capacity)

/-- As much of the front of `bs` as the buffer can hold. -/
def Launch.cut (l : Launch) (bs : List Byte) : List Byte :=
  match l.rxCapacity with
  | none => bs
  | some capacity => bs.take capacity

/-- The subsequence of `bs` that `keep` marks; bytes past the end of `keep` are lost. -/
def pick : List Byte → List Bool → List Byte
  | b :: bs, true :: keep => b :: pick bs keep
  | _ :: bs, false :: keep => pick bs keep
  | _, _ => []

/-- What an arrival of `bs` delivers behind `rx`: all of it if it fits, else a drawn subsequence that fits (10_state.md R24). -/
def Launch.deliver (l : Launch) (rx bs : List Byte) (keep : List Bool) : List Byte :=
  if l.fits (rx ++ bs) then bs
  else
    match l.rxCapacity with
    | none => bs
    | some capacity => (pick bs keep).take (capacity - rx.length)

/-- A request answered: the new channel, the draws left, the response in the host's `r` (30_encoding.md R60), and the host at
its next statement (10_state.md R23). -/
def State.respond (s : State) (c : Channel) (d : Draws) (r : Response) : State :=
  { s with chan := c, draws := d, resp := some r, hpc := s.hpc + 1 }

/-- A refusal: "sets the sticky state flag `refused` and changes nothing else" (60_exceptions.md R92). -/
def State.refuse (s : State) : State := { s with refused := true }

/-- The state a verdict leaves. -/
def State.settle (s : State) : Verdict → State
  | .respond c d r => s.respond c d r
  | .refuse _ => s.refuse

end Sys2Proof.Machine
end

