-- ==== Sys2Proof/Machine/Environment.lean ====
section
/-! DEFINITION. The agents outside the block: arrivals, the transport layer, a second agent, reset. Each acts between two
operations, never inside one (20_memory.md R39). -/

namespace Sys2Proof.Machine

/-- `Arrive(bytes)`: appends to `rx` and does nothing else (10_state.md R24, R25). -/
def State.arrive (s : State) (bytes : List Byte) (keep : List Bool) : State :=
  { s with chan := { s.chan with rx := s.chan.rx ++ s.launch.deliver s.chan.rx bytes keep } }

/-- The transport layer sets the channel's open flag (10_state.md R22; log entry 14). -/
def State.setOpen (s : State) (isOpen : Bool) : State := { s with chan := { s.chan with isOpen := isOpen } }

/-- A reset between operations (70_reset_and_hazards.md R104, R105): the values of 10_state.md R28, but "Bytes already written
to `tx` by a SEND stay written" (R105) and "Nothing clears `refused`" (60_exceptions.md R92). Log entry 16; `rx0` is cut to the
capacity (log entry 6). -/
def State.resetTurn (s : State) (rx0 : List Byte) : State :=
  { s with chan := { s.chan with rx := s.launch.cut rx0, isOpen := true }, hpc := 0, resp := none }

end Sys2Proof.Machine
end

