-- ==== Sys2Proof/Machine/Flags.lean ====
section
/-! DEFINITION. The conditions a host can branch on. The block has no status flags or condition codes: "The only condition a
host can branch on is the tag of a response" (10_state.md R19). -/

namespace Sys2Proof.Machine

/-- The tag of a SEND's result (30_encoding.md R60): `Sent(9)` is `SENT9`, fewer bytes are `SHORT`. -/
def SendResult.tag : SendResult → Tag
  | .sent n => if n.val = 9 then .sent9 else .short
  | .writeFailed => .wFail

/-- The tag of a CHECK's or POLL's result (30_encoding.md R60). A reply's `status` is data, not a condition (10_state.md R19). -/
def Result.tag : Result → Tag
  | .ok _ => .ok
  | .notReady => .notReady
  | .checksumError => .ckErr

/-- The tag of a response; ENCODE's frame has none (10_state.md R19). -/
def Response.tag : Response → Option Tag
  | .frame _ => none
  | .send r => some r.tag
  | .result r => some r.tag

/-- Whether `BR.<tag>` branches: the tag of `r` is `tag`. No response yet, or a frame, has no tag (log entry 12). -/
def branchTaken (r : Option Response) (tag : Tag) : Bool :=
  match r with
  | none => false
  | some response => response.tag == some tag

/-- What the CALLER calls success: status 100 (41_deserializer.md R75). No rule of the block reads it. -/
def Reply.callerSuccess (r : Reply) : Bool := r.status == Config.statusOk

end Sys2Proof.Machine
end

