-- ==== Sys2Proof/Machine/Deserializer.lean ====
section
/-! DEFINITION. The deserializer: DECODE_FRAME, CHECK and POLL (41_deserializer.md R73 to R83). -/

namespace Sys2Proof.Machine

/-- The fields of a reply frame, format `REPLY` (30_encoding.md R55, 41_deserializer.md R74). -/
def replyOf (f : Frame) : Reply where
  replyAddress := f.b0
  status := f.b2
  value := sext32 (joinBytes f.b4 f.b5 f.b6 f.b7)

/-- DECODE_FRAME (41_deserializer.md R76): the checksum by exact byte equality, then the fields, whatever they hold. -/
def decodeFrame (f : Frame) : Result :=
  if checksum f = f.b8 then .ok (replyOf f) else .checksumError

/-- CHECK's verdict: the shape check (30_encoding.md R52), then DECODE_FRAME (41_deserializer.md R78). -/
def checkVerdict (frameIn : List Byte) (c : Channel) (d : Draws) : Verdict :=
  if isFrameLength frameIn then .respond c d (.result (decodeFrame (Frame.ofList frameIn)))
  else .refuse .frameLength

/-- POLL's verdict (41_deserializer.md R79): the channel check, `NotReady` below 9 bytes, else the oldest 9 bytes taken and
decoded, the rest left in order (R80). -/
def pollVerdict (l : Launch) (c : Channel) (d : Draws) : Verdict :=
  if c.isOpen then
    if c.rxAvail < 9 then .respond c d (.result .notReady)
    else .respond (c.read 9).2 (drawsAfterRead l d) (.result (decodeFrame (Frame.ofList (c.read 9).1)))
  else .refuse .channelClosed

/-- CHECK (41_deserializer.md R78). -/
def execCheck (frameIn : List Byte) (s : State) : Host.Outcome State Fault Refusal :=
  .next (s.settle (checkVerdict frameIn s.chan s.draws))

/-- POLL (41_deserializer.md R79); without a step where the channel's read fails (60_exceptions.md R91, log entry 10). -/
def execPoll (s : State) : Host.Outcome State Fault Refusal :=
  if readStuck s.launch s.chan s.draws then .fault .readFailed
  else .next (s.settle (pollVerdict s.launch s.chan s.draws))

end Sys2Proof.Machine
end

