-- ==== Sys2Proof/Machine/Serializer.lean ====
section
/-! DEFINITION. The serializer: ENCODE and SEND (40_serializer.md R66 to R72). -/

namespace Sys2Proof.Machine

/-- The command frame, format `CMD` (30_encoding.md R54), by the pseudocode of 40_serializer.md R66. -/
def commandFrame (address command type motor : Nat) (value : Int) : Frame :=
  let u := u32Of value
  let f : Frame :=
    { b0 := toU8 address
      b1 := toU8 command
      b2 := toU8 type
      b3 := toU8 motor
      b4 := byteAt u 24
      b5 := byteAt u 16
      b6 := byteAt u 8
      b7 := byteAt u 0
      b8 := 0 }
  { f with b8 := checksum f }

/-- ENCODE's verdict: the shape check (60_exceptions.md R94 step 1), then 40_serializer.md R66. -/
def encodeVerdict (address command type motor : Nat) (value : Int) (c : Channel) (d : Draws) : Verdict :=
  if inI32 value then .respond c d (.frame (commandFrame address command type motor value))
  else .refuse .valueOutOfRange

/-- SEND's verdict: the shape check, the channel check, then the write (60_exceptions.md R94, 40_serializer.md R68). -/
def sendVerdict (address command type motor : Nat) (value : Int) (l : Launch) (c : Channel) (d : Draws) : Verdict :=
  if inI32 value then
    if c.isOpen then
      .respond (c.write (commandFrame address command type motor value).toList (writeDraw l d)) d.afterWrite
        (.send (writeResult (writeDraw l d)))
    else .refuse .channelClosed
  else .refuse .valueOutOfRange

/-- ENCODE (40_serializer.md R66). -/
def execEncode (address command type motor : Nat) (value : Int) (s : State) : Host.Outcome State Fault Refusal :=
  .next (s.settle (encodeVerdict address command type motor value s.chan s.draws))

/-- SEND (40_serializer.md R68). -/
def execSend (address command type motor : Nat) (value : Int) (s : State) : Host.Outcome State Fault Refusal :=
  .next (s.settle (sendVerdict address command type motor value s.launch s.chan s.draws))

end Sys2Proof.Machine
end

