-- ==== Sys2Proof/Machine/Dispatch.lean ====
section
/-! DEFINITION. One arm per operation of spec/opcode_table.json. -/

namespace Sys2Proof.Machine

def exec (i : Instr) (s : State) : Host.Outcome State Fault Refusal :=
  match i with
  | .encode address command type motor value => Sys2Proof.Machine.execEncode address command type motor value s
  | .send address command type motor value => Sys2Proof.Machine.execSend address command type motor value s
  | .check frameIn => Sys2Proof.Machine.execCheck frameIn s
  | .poll => Sys2Proof.Machine.execPoll s

end Sys2Proof.Machine
end

