-- ==== Sys2Proof/Machine/HostProgram.lean ====
section
/-! DEFINITION. The host: its statements, and the syntax of 30_encoding.md R60 and R61 with labels and `WAIT`. -/

namespace Sys2Proof.Machine

/-- A request put to the block: no operation for its `op` is the refusal `OpOutOfRange` (30_encoding.md R53), before any other
check (60_exceptions.md R94 step 1). -/
def issue (q : Request) (s : State) : Host.Outcome State Fault Refusal :=
  match q.decode with
  | .ok i => exec i s
  | .error _ => .next (s.settle (.refuse .opOutOfRange))

/-- One statement of the host program (30_encoding.md R60). `HALT` leaves the host where it is (log entry 11). -/
def runStmt (t : Stmt) (s : State) : Host.Outcome State Fault Refusal :=
  match t with
  | .request q => issue q s
  | .br tag target => .next { s with hpc := if branchTaken s.resp tag then target else s.hpc + 1 }
  | .jmp target => .next { s with hpc := target }
  | .halt => .next s

/-- The host's turn: the statement at `hpc`. Past the program's end the host issues nothing and the block is idle
(60_exceptions.md R103; log entry 11). -/
def hostTurn (s : State) : Host.Outcome State Fault Refusal :=
  match s.launch.program[s.hpc]? with
  | some t => runStmt t s
  | none => .next s

/-- A line of a host program as it is written (30_encoding.md R60, R61). A label's name is a number here (log entry 20). -/
inductive Line where
  | request (q : Request)
  /-- `L:` labels the next statement. -/
  | label (l : Nat)
  /-- `BR.<tag> L` -/
  | br (tag : Tag) (l : Nat)
  /-- `JMP L` -/
  | jmp (l : Nat)
  | halt
  /-- `WAIT L` -/
  | wait (l : Nat)
  deriving DecidableEq, Repr

/-- `WAIT L` expands to `L: POLL` and `BR.NOTREADY L` (30_encoding.md R61). -/
def expandWait : List Line → List Line
  | [] => []
  | .wait l :: rest => .label l :: .request Instr.poll.toRequest :: .br .notReady l :: expandWait rest
  | line :: rest => line :: expandWait rest

/-- The labels of a listing, each with the index of the statement after it; `n` is the index of the next statement. A label with no
statement after it stands for the index past the last statement, where the host is idle: DESIGN CHOICE, log entry 25. -/
def labelsFrom (n : Nat) : List Line → List (Nat × Nat)
  | [] => []
  | .label l :: rest => (l, n) :: labelsFrom n rest
  | _ :: rest => labelsFrom (n + 1) rest

/-- The statement a label stands for, where exactly one line defines it (log entry 20). -/
def lookupLabel (labels : List (Nat × Nat)) (l : Nat) : Option Nat :=
  match labels.filter (fun p => p.1 == l) with
  | [(_, n)] => some n
  | _ => none

/-- The statements of a listing, its labels resolved; none where a label is not defined exactly once. -/
def resolve (labels : List (Nat × Nat)) : List Line → Option (List Stmt)
  | [] => some []
  | .label l :: rest => (lookupLabel labels l).bind fun _ => resolve labels rest
  | .request q :: rest => (resolve labels rest).map (Stmt.request q :: ·)
  | .br tag l :: rest => (lookupLabel labels l).bind fun n => (resolve labels rest).map (Stmt.br tag n :: ·)
  | .jmp l :: rest => (lookupLabel labels l).bind fun n => (resolve labels rest).map (Stmt.jmp n :: ·)
  | .halt :: rest => (resolve labels rest).map (Stmt.halt :: ·)
  | .wait _ :: _ => none

/-- The host program of a listing (30_encoding.md R60, R61). -/
def assemble (lines : List Line) : Option (List Stmt) :=
  resolve (labelsFrom 0 (expandWait lines)) (expandWait lines)

end Sys2Proof.Machine
end

