-- ==== Sys2Proof/Machine/Turns.lean ====
section
/-! DEFINITION. Whose turn a step is, and placing a request where the next step finds it. -/

namespace Sys2Proof.Machine

/-- The step of one turn, the turn already taken off the agenda. -/
def runTurn (t : Turn) (s : State) : Host.Outcome State Fault Refusal :=
  match t with
  | .host => hostTurn s
  | .arrive bytes keep => .next (s.arrive bytes keep)
  | .openChannel => .next (s.setOpen true)
  | .closeChannel => .next (s.setOpen false)
  | .secondAgent => .next (s.settle (.refuse .secondAgent))
  | .reset rx0 => .next (s.resetTurn rx0)

/-- The turn the agenda gives next; the empty agenda is the host's turn (log entry 8). -/
def nextTurn (agenda : List Turn) : Turn := agenda.headD .host

/-- The agenda with the host's turn next. -/
def hostFirst : List Turn → List Turn
  | [] => []
  | .host :: rest => .host :: rest
  | turns => .host :: turns

/-- The program with statement `n` replaced by `t`, grown with `HALT` where it is too short. -/
def placeStmt (t : Stmt) : Nat → List Stmt → List Stmt
  | 0, [] => [t]
  | 0, _ :: rest => t :: rest
  | n + 1, [] => .halt :: placeStmt t n []
  | n + 1, u :: rest => u :: placeStmt t n rest

/-- The state with `t` as the host's statement at `hpc`, the host's turn next. -/
def State.withStmt (s : State) (t : Stmt) : State :=
  { s with launch := { s.launch with program := placeStmt t s.hpc s.launch.program }, agenda := hostFirst s.agenda }

end Sys2Proof.Machine
end

