-- ==== Sys2Proof/Machine/Step.lean ====
section
/-! DEFINITION. One step of the machine: the next turn of the agenda, the host's own where there is none. The block fetches no
instructions (10_state.md R15); what the machine fetches is the host's statement at `hpc`. -/

namespace Sys2Proof.Machine

def step (s : State) : Host.Outcome State Fault Refusal :=
  runTurn (nextTurn s.agenda) { s with agenda := s.agenda.tail }

/-- The state with the request of a spec/opcode_table.json word as the host's statement at `hpc` and the host's turn next
(log entry 7). -/
def State.withFetchWord (s : State) (nbits w : Nat) : State :=
  s.withStmt (.request (Request.ofLayout (tableBytes nbits w)))

end Sys2Proof.Machine
end

