-- ==== Sys2Proof/Safety.lean ====
section
/-! DEFINITION. The words claims are stated in: the ranges, the frames by arithmetic alone, what the next step runs, the
invariant, and what flows through the channel over a run. -/

namespace Sys2Proof.Machine

/-- The 9 bytes of the command frame (30_encoding.md R54), written out by arithmetic on integers and without any function of
the machine: `u = value mod 2^32`, its bytes from the most significant one, and the sum of bytes 0..7; `BitVec.ofNat 8` reduces
modulo 256. -/
def commandBytes (address command type motor : Nat) (value : Int) : List Byte :=
  let u := (value % 4294967296).toNat
  [BitVec.ofNat 8 address, BitVec.ofNat 8 command, BitVec.ofNat 8 type, BitVec.ofNat 8 motor,
    BitVec.ofNat 8 (u / 16777216), BitVec.ofNat 8 (u / 65536), BitVec.ofNat 8 (u / 256), BitVec.ofNat 8 u,
    BitVec.ofNat 8 (address + command + type + motor + u / 16777216 + u / 65536 + u / 256 + u)]

/-- The value of four big-endian bytes (41_deserializer.md R74), by arithmetic on integers alone. -/
def valueOf (b4 b5 b6 b7 : Byte) : Int :=
  let u := b4.toNat * 16777216 + b5.toNat * 65536 + b6.toNat * 256 + b7.toNat
  if u < 2147483648 then (u : Int) else (u : Int) - 4294967296

/-- What nine bytes decode to (41_deserializer.md R76), by arithmetic on integers alone. -/
def decodedResult (b0 b1 b2 b3 b4 b5 b6 b7 b8 : Byte) : Result :=
  if (b0.toNat + b1.toNat + b2.toNat + b3.toNat + b4.toNat + b5.toNat + b6.toNat + b7.toNat) % 256 = b8.toNat then
    .ok ⟨b0, b2, valueOf b4 b5 b6 b7⟩
  else .checksumError

/-- A frame the deserializer accepts (30_encoding.md R57). -/
def validFrame (f : Frame) : Prop := checksum f = f.b8

/-- The operation the next step runs, where the next turn is the host's and its statement is one. -/
def State.nextInstr (s : State) : Option Instr :=
  match nextTurn s.agenda, s.launch.program[s.hpc]? with
  | .host, some (.request q) =>
    match q.decode with
    | .ok i => some i
    | .error _ => none
  | _, _ => none

/-- A sequence of whole command or reply frames with matching checksums. -/
def wholeFrames (bs : List Byte) : Prop :=
  ∃ fs : List Frame, bs = (fs.map Frame.toList).flatten ∧ ∀ f ∈ fs, validFrame f

/-- The machine's invariant: the receive buffer is within its capacity (10_state.md R24), a reply's value is an `i32`
(00_scope.md R11), and under `WRITE_ALWAYS_FULL` the transmit log is whole frames and every SEND's answer is `Sent(9)`
(40_serializer.md R70). -/
structure Inv (s : State) : Prop where
  buffer_fits : s.launch.fits s.chan.rx = true
  value_in_range : ∀ reply, s.resp = some (.result (.ok reply)) → inI32 reply.value = true
  tx_whole : s.launch.writeAlwaysFull = true → wholeFrames s.chan.tx
  sent_all : s.launch.writeAlwaysFull = true → ∀ r, s.resp = some (.send r) → r = .sent 9

/-- The 9-byte window the next step takes from `rx`, if it takes one. -/
def windowTaken (s : State) : List (List Byte) :=
  if s.nextInstr = some .poll ∧ s.chan.isOpen = true ∧ 9 ≤ s.chan.rx.length then [s.chan.rx.take 9] else []

/-- The bytes the next step's turn delivers. -/
def bytesDelivered (s : State) : List Byte :=
  match nextTurn s.agenda with
  | .arrive bytes keep => s.launch.deliver s.chan.rx bytes keep
  | _ => []

/-- What has passed through the channel in a run. -/
structure Flow where
  /-- The windows POLL has taken, in order. -/
  windows : List (List Byte)
  /-- The host's `r` right after each of them. -/
  answers : List (Option Response)
  /-- The bytes that have arrived, in order. -/
  arrived : List Byte
  last : State
  deriving DecidableEq, Repr

/-- A run of `k` steps with what passed through the channel; none where a step stops. -/
def flow : Nat → State → Option Flow
  | 0, s => some ⟨[], [], [], s⟩
  | k + 1, s =>
    match step s with
    | .next t =>
      (flow k t).map fun rest =>
        { rest with
          windows := windowTaken s ++ rest.windows
          answers := (windowTaken s).map (fun _ => t.resp) ++ rest.answers
          arrived := bytesDelivered s ++ rest.arrived }
    | _ => none

/-- No reset is on the agenda. -/
def noReset (agenda : List Turn) : Prop := ∀ rx0, Turn.reset rx0 ∉ agenda

/-- The channel was configured as 70_reset_and_hazards.md R106 asks, at some baud rate: a premise of a run, which the block
does not check. -/
def LineConfig.asRequired (l : LineConfig) : Prop :=
  l.dataBits = 8 ∧ l.parity = .noParity ∧ l.stopBits = 1 ∧ l.binaryMode = true ∧ l.otherFlowControl = false
  ∧ l.rtsToggledOnSend = true ∧ l.readReturnsAtOnce = true

end Sys2Proof.Machine
end

