-- ==== Sys2Proof/Certificates/Slice0/Obligations.lean ====
section
/-! DEFINITION. The statements for the provers, from the numbered rules of spec/. -/

open Sys2Proof Sys2Proof.Machine

/-- 10_state.md R28: the start of a run, for every choice of the launch parameters, the stale bytes and the draws; the state after
reset is such a start, with the free `RX0` for the stale bytes. -/
def Obligations.ResetLeavesTheStartState : Prop :=
  (∀ l rx0 d g, (State.start l rx0 d g).chan.tx = [] ∧ (State.start l rx0 d g).chan.isOpen = true
    ∧ (State.start l rx0 d g).hpc = 0 ∧ (State.start l rx0 d g).refused = false ∧ (State.start l rx0 d g).resp = none
    ∧ (l.fits rx0 = true → (State.start l rx0 d g).chan.rx = rx0))
  ∧ ∃ l d g, State.reset = State.start l Config.rx0 d g

/-- At reset the switches are at their defaults (92_eei_decisions.md D4, 60_exceptions.md R91) and the line is configured as
70_reset_and_hazards.md R106 asks, at any baud rate. That a configured line belongs to the state after reset is the model's choice
(log entry 18). -/
def Obligations.ResetTakesTheDefaultParameters : Prop :=
  State.reset.launch.writeAlwaysFull = false ∧ State.reset.launch.readCanFail = false
  ∧ LineConfig.asRequired State.reset.launch.line

/-- 40_serializer.md R66 with 30_encoding.md R54: ENCODE completes on every i32 value and all 8-bit operands, on an open and on a closed
channel, answers the command frame, and changes nothing but the host's `r` and `hpc`; with a value outside the i32 range it is
refused. -/
def Obligations.EncodeAnswersTheCommandFrame : Prop :=
  ∀ (a c t m : Nat) (v : Int) (s : State),
    (-2147483648 ≤ v → v ≤ 2147483647 →
      ∃ f : Frame, f.toList = commandBytes a c t m v ∧
        exec (.encode a c t m v) s = .next { s with resp := some (.frame f), hpc := s.hpc + 1 })
    ∧ (v < -2147483648 ∨ 2147483647 < v → exec (.encode a c t m v) s = .next { s with refused := true })

/-- 40_serializer.md R68: SEND on an open channel completes under every draw: the bytes the draw accepts are appended to `tx`, and the
answer is the draw's; under `WRITE_ALWAYS_FULL` the draw is `Full`; on a closed channel, or with a value outside the i32 range,
SEND is refused. -/
def Obligations.SendAppendsTheDrawnPrefix : Prop :=
  ∀ (a c t m : Nat) (v : Int) (s : State),
    (-2147483648 ≤ v → v ≤ 2147483647 → s.chan.isOpen = true →
      (writeDraw s.launch s.draws = .full →
        exec (.send a c t m v) s = .next { s with
          chan := { s.chan with tx := s.chan.tx ++ commandBytes a c t m v }
          draws := s.draws.afterWrite, resp := some (.send (.sent 9)), hpc := s.hpc + 1 })
      ∧ (∀ n : Fin 9, writeDraw s.launch s.draws = .short n →
        exec (.send a c t m v) s = .next { s with
          chan := { s.chan with tx := s.chan.tx ++ (commandBytes a c t m v).take n.val }
          draws := s.draws.afterWrite, resp := some (.send (.sent n.castSucc)), hpc := s.hpc + 1 })
      ∧ (∀ k : Fin 10, writeDraw s.launch s.draws = .fail k →
        exec (.send a c t m v) s = .next { s with
          chan := { s.chan with tx := s.chan.tx ++ (commandBytes a c t m v).take k.val }
          draws := s.draws.afterWrite, resp := some (.send .writeFailed), hpc := s.hpc + 1 })
      ∧ (s.launch.writeAlwaysFull = true → writeDraw s.launch s.draws = .full))
    ∧ (v < -2147483648 ∨ 2147483647 < v ∨ s.chan.isOpen = false →
        exec (.send a c t m v) s = .next { s with refused := true })

/-- 92_eei_decisions.md D4: without `WRITE_ALWAYS_FULL` SEND meets the channel's own draws in order; past the end of those written down
the draw is a free value of the draw's number (log entry 9). -/
def Obligations.WriteDrawsAreTakenInOrder : Prop :=
  ∀ (l : Launch) (d : Draws), l.writeAlwaysFull = false →
    (∀ w ws, d.writes = w :: ws → writeDraw l d = w ∧ d.afterWrite.writes = ws)
    ∧ (d.writes = [] → writeDraw l d = Config.writeDraw d.count ∧ d.afterWrite = { d with count := d.count + 1 })

/-- 40_serializer.md R69: the bytes SEND puts on `tx` are the first bytes of the frame ENCODE returns for the same operands: 9 for `Full`,
`n` for `Short(n)`, `k` for `Fail(k)`. -/
def Obligations.SendWritesTheFrameEncodeReturns : Prop :=
  (∀ (a c t m : Nat) (v : Int) (s : State), inI32 v = true → s.chan.isOpen = true →
    ∃ (f : Frame) (t1 t2 : State),
      exec (.encode a c t m v) s = .next t1 ∧ t1.resp = some (.frame f)
      ∧ exec (.send a c t m v) s = .next t2
      ∧ t2.chan.tx = s.chan.tx ++ f.toList.take (acceptedBytes (writeDraw s.launch s.draws)))
  ∧ acceptedBytes .full = 9 ∧ (∀ n, acceptedBytes (.short n) = n.val) ∧ ∀ k, acceptedBytes (.fail k) = k.val

/-- 40_serializer.md R67: ENCODE answers a frame on all operands, and two ENCODE requests return the same frame exactly when their reduced
operands are equal. -/
def Obligations.EncodeIsInjectiveOnReducedOperands : Prop :=
  ∀ (a c t m a' c' t' m' : Nat) (v v' : Int) (s : State), inI32 v = true → inI32 v' = true →
    ∃ f f' : Frame,
      exec (.encode a c t m v) s = .next { s with resp := some (.frame f), hpc := s.hpc + 1 }
      ∧ exec (.encode a' c' t' m' v') s = .next { s with resp := some (.frame f'), hpc := s.hpc + 1 }
      ∧ (f = f' ↔ a % 256 = a' % 256 ∧ c % 256 = c' % 256 ∧ t % 256 = t' % 256 ∧ m % 256 = m' % 256 ∧ v = v')

/-- 30_encoding.md R50: every operation acts on its 8-bit fields reduced modulo 256; no value of them is refused, and ENCODE places the
reduced fields in bytes 0..3. -/
def Obligations.ByteFieldsAreReducedModulo256 : Prop :=
  (∀ (i : Instr) (s : State), exec i s = exec i.reduce s)
  ∧ ∀ (a c t m : Nat) (v : Int) (s : State), inI32 v = true →
      ∃ f : Frame, exec (.encode a c t m v) s = .next { s with resp := some (.frame f), hpc := s.hpc + 1 }
        ∧ f.b0.toNat = a % 256 ∧ f.b1.toNat = c % 256 ∧ f.b2.toNat = t % 256 ∧ f.b3.toNat = m % 256

/-- 10_state.md R22: SEND and POLL on a closed channel are refused; ENCODE and CHECK do not read the open flag. -/
def Obligations.ClosedChannelRefusesSendAndPoll : Prop :=
  ∀ s : State, s.chan.isOpen = false →
    (∀ a c t m v, exec (.send a c t m v) s = .next { s with refused := true })
    ∧ exec .poll s = .next { s with refused := true }
    ∧ (∀ a c t m v, inI32 v = true →
        ∃ f : Frame, f.toList = commandBytes a c t m v ∧
          exec (.encode a c t m v) s = .next { s with resp := some (.frame f), hpc := s.hpc + 1 })
    ∧ (∀ b0 b1 b2 b3 b4 b5 b6 b7 b8 : Byte,
        exec (.check [b0, b1, b2, b3, b4, b5, b6, b7, b8]) s = .next { s with
          resp := some (.result (decodedResult b0 b1 b2 b3 b4 b5 b6 b7 b8)), hpc := s.hpc + 1 })

/-- 60_exceptions.md R93 and R94 steps 1 and 2, by the verdicts' reasons: the shape refusals come before `ChannelClosed`. -/
def Obligations.RefusalReasonsInOrder : Prop :=
  (∀ a c t m v ch d, inI32 v = false → encodeVerdict a c t m v ch d = .refuse .valueOutOfRange)
  ∧ (∀ a c t m v l ch d, inI32 v = false → sendVerdict a c t m v l ch d = .refuse .valueOutOfRange)
  ∧ (∀ a c t m v l ch d, inI32 v = true → ch.isOpen = false → sendVerdict a c t m v l ch d = .refuse .channelClosed)
  ∧ (∀ bs ch d, bs.length ≠ 9 → checkVerdict bs ch d = .refuse .frameLength)
  ∧ (∀ l ch d, ch.isOpen = false → pollVerdict l ch d = .refuse .channelClosed)
  ∧ (∀ a c t m v ch d, inI32 v = true → ∃ f, encodeVerdict a c t m v ch d = .respond ch d (.frame f))
  ∧ (∀ a c t m v l ch d, inI32 v = true → ch.isOpen = true →
      ∃ ch' r, sendVerdict a c t m v l ch d = .respond ch' d.afterWrite (.send r))
  ∧ (∀ bs ch d, bs.length = 9 → ∃ r, checkVerdict bs ch d = .respond ch d (.result r))
  ∧ (∀ l ch d, ch.isOpen = true → ∃ ch' d' r, pollVerdict l ch d = .respond ch' d' (.result r))

/-- 40_serializer.md R63: the checksum is the sum of bytes 0..7 modulo 256, stored in byte 8 of the frame ENCODE and SEND build, compared
with byte 8 by the deserializer; and the rule's example. -/
def Obligations.ChecksumIsTheSumModulo256 : Prop :=
  (∀ f : Frame, (checksum f).toNat =
    (f.b0.toNat + f.b1.toNat + f.b2.toNat + f.b3.toNat + f.b4.toNat + f.b5.toNat + f.b6.toNat + f.b7.toNat) % 256)
  ∧ (∀ a c t m v, (commandFrame a c t m v).b8 = checksum (commandFrame a c t m v))
  ∧ (∀ f : Frame, decodeFrame f = .checksumError ↔ checksum f ≠ f.b8)
  ∧ ∀ b8 : Byte, checksum ⟨0x01, 0x04, 0x00, 0x01, 0x00, 0x00, 0xC3, 0x50, b8⟩ = 0x19

/-- 00_scope.md R10: `sum8` is the sum modulo 256, and reduction after each addition and reduction once at the end give the same result. -/
def Obligations.SumReducesAnywhere : Prop :=
  ∀ s : List Byte, (sum8 s).toNat = (s.map BitVec.toNat).sum % 256 ∧ sum8 s = s.foldl (fun acc b => acc + b) 0

/-- 40_serializer.md R64, of accepted frames (log entry 23): any change to exactly one byte of an accepted frame is detected, every
single-bit flip among them. -/
def Obligations.OneByteChangeIsDetected : Prop :=
  ∀ (f : Frame) (i : Fin 9), decodeFrame f ≠ .checksumError →
    (∀ b : Byte, b ≠ f.toList.getD i.val 0 → decodeFrame (Frame.ofList (f.toList.set i.val b)) = .checksumError)
    ∧ ∀ k : Fin 8, decodeFrame (Frame.ofList (f.toList.set i.val (f.toList.getD i.val 0 ^^^ BitVec.twoPow 8 k.val)))
        = .checksumError

/-- 40_serializer.md R65, its listed cases: a reordering of bytes 0..7, adding to one byte what another loses, flipping bit 7 of two
bytes, and changing byte 8 with one other byte by the same amount leave the comparison's verdict as it was. -/
def Obligations.CancellingChangesGoUndetected : Prop :=
  (∀ f g : Frame, (f.toList.take 8).Perm (g.toList.take 8) → f.b8 = g.b8 →
    (decodeFrame f = .checksumError ↔ decodeFrame g = .checksumError))
  ∧ ∀ (f : Frame) (i j : Fin 8) (d : Byte), i ≠ j →
    (decodeFrame (Frame.ofList ((f.toList.set i.val (f.toList.getD i.val 0 + d)).set j.val (f.toList.getD j.val 0 - d)))
        = .checksumError ↔ decodeFrame f = .checksumError)
    ∧ (decodeFrame (Frame.ofList ((f.toList.set i.val (f.toList.getD i.val 0 ^^^ 128#8)).set j.val
        (f.toList.getD j.val 0 ^^^ 128#8))) = .checksumError ↔ decodeFrame f = .checksumError)
    ∧ (decodeFrame (Frame.ofList ((f.toList.set i.val (f.toList.getD i.val 0 + d)).set 8 (f.b8 + d)))
        = .checksumError ↔ decodeFrame f = .checksumError)

/-- 41_deserializer.md R78 with R74, R76 and 30_encoding.md R52: CHECK completes on any nine bytes, on an open and on a closed channel, answers
what they decode to, and changes nothing but the host's `r` and `hpc`; a `frame_in` of another length is refused. -/
def Obligations.CheckAnswersTheDecodedFrame : Prop :=
  ∀ s : State,
    (∀ b0 b1 b2 b3 b4 b5 b6 b7 b8 : Byte,
      exec (.check [b0, b1, b2, b3, b4, b5, b6, b7, b8]) s = .next { s with
        resp := some (.result (decodedResult b0 b1 b2 b3 b4 b5 b6 b7 b8)), hpc := s.hpc + 1 })
    ∧ ∀ bs : List Byte, bs.length ≠ 9 → exec (.check bs) s = .next { s with refused := true }

/-- 41_deserializer.md R79 and R80: on an open channel POLL completes: with fewer than 9 bytes it answers `NotReady` and consumes nothing;
with 9 or more it takes exactly the oldest 9, leaves the rest in order and answers what the 9 decode to, the surplus having no
part in the answer; on a closed channel it is refused. -/
def Obligations.PollConsumesTheOldestNineOrNothing : Prop :=
  ∀ s : State, s.launch.readCanFail = false →
    (s.chan.isOpen = true → s.chan.rx.length < 9 →
      exec .poll s = .next { s with resp := some (.result .notReady), hpc := s.hpc + 1 })
    ∧ (∀ (b0 b1 b2 b3 b4 b5 b6 b7 b8 : Byte) (rest : List Byte), s.chan.isOpen = true →
      s.chan.rx = b0 :: b1 :: b2 :: b3 :: b4 :: b5 :: b6 :: b7 :: b8 :: rest →
      exec .poll s = .next { s with
        chan := { s.chan with rx := rest }
        resp := some (.result (decodedResult b0 b1 b2 b3 b4 b5 b6 b7 b8)), hpc := s.hpc + 1 })
    ∧ (s.chan.isOpen = false → exec .poll s = .next { s with refused := true })

/-- 41_deserializer.md R87: exactly 8 bytes are `NotReady`; exactly 9 bytes with a correct checksum are `Ok`. -/
def Obligations.NotReadyBoundaryIsNineBytes : Prop :=
  ∀ s : State, s.chan.isOpen = true → s.launch.readCanFail = false →
    (s.chan.rx.length = 8 → ∃ t, exec .poll s = .next t ∧ t.resp = some (.result .notReady))
    ∧ (s.chan.rx.length = 9 → validFrame (Frame.ofList s.chan.rx) →
      ∃ t reply, exec .poll s = .next t ∧ t.resp = some (.result (.ok reply)))

/-- 41_deserializer.md R81: POLL completes in one step with one of its three results, whatever `rx` holds (`READ_CAN_FAIL` at its default,
60_exceptions.md R91). -/
def Obligations.PollNeverWaits : Prop :=
  ∀ s : State, s.chan.isOpen = true → s.launch.readCanFail = false →
    ∃ (t : State) (r : Result), exec .poll s = .next t ∧ t.resp = some (.result r) ∧ t.hpc = s.hpc + 1

/-- 60_exceptions.md R91: under `READ_CAN_FAIL` a POLL that finds 9 bytes has no step exactly when the read's draw fails; otherwise it
is the POLL of the switch's other setting. The read meets the channel's read draws in order, and past the end of those written down
a free value of the draw's number. That the stop is the fault `readFailed`, and the form of the draw, are the model's choice (log
entry 10). -/
def Obligations.FailedReadLeavesPollNoStep : Prop :=
  (∀ s : State, s.chan.isOpen = true → 9 ≤ s.chan.rx.length → s.launch.readCanFail = true →
    (s.draws.nextReadFails = true → exec .poll s = .fault .readFailed)
    ∧ (s.draws.nextReadFails = false →
        exec .poll s = .next { s with
          chan := { s.chan with rx := s.chan.rx.drop 9 }
          draws := { s.draws with reads := s.draws.reads.tail, count := s.draws.count + 1 }
          resp := some (.result (decodeFrame (Frame.ofList (s.chan.rx.take 9)))), hpc := s.hpc + 1 }))
  ∧ ∀ d : Draws,
    (∀ b bs, d.reads = b :: bs → d.nextReadFails = b)
    ∧ (d.reads = [] → d.nextReadFails = Config.readFails d.count)

/-- 92_eei_decisions.md D10: CHECK's result is exactly POLL's result on the same 9 bytes. -/
def Obligations.PollAnswersAsCheckDoes : Prop :=
  ∀ (bs rest : List Byte) (s : State), bs.length = 9 → s.chan.isOpen = true → s.chan.rx = bs ++ rest →
    s.launch.readCanFail = false →
    ∃ t u, exec .poll s = .next t ∧ exec (.check bs) s = .next u ∧ t.resp = u.resp

/-- 20_memory.md R40: a POLL that answers `NotReady` can be repeated: the second POLL gives the same answer and the same channel. -/
def Obligations.NotReadyPollIsIdempotent : Prop :=
  ∀ s t : State, exec .poll s = .next t → t.resp = some (.result .notReady) → s.chan.isOpen = true →
    s.chan.rx.length < 9 →
    t.chan = s.chan ∧ exec .poll t = .next { t with hpc := t.hpc + 1 }

/-- 41_deserializer.md R84: decoding an encoded command frame gives back address, type and value. -/
def Obligations.CommandFrameRoundTrip : Prop :=
  ∀ (a c t m : Nat) (v : Int), a < 256 → c < 256 → t < 256 → m < 256 → inI32 v = true →
    decodeFrame (commandFrame a c t m v) = .ok ⟨BitVec.ofNat 8 a, BitVec.ofNat 8 t, v⟩

/-- 41_deserializer.md R85 with R75 and 30_encoding.md R56: a reply frame built from an address, a status and a value decodes to
them, whatever the status is and whatever bytes 1 and 3 hold. -/
def Obligations.ReplyFrameRoundTrip : Prop :=
  ∀ (ra ma st x : Byte) (v : Int), inI32 v = true →
    let u := (v % 4294967296).toNat
    let g : List Byte := [ra, ma, st, x, BitVec.ofNat 8 (u / 16777216), BitVec.ofNat 8 (u / 65536),
      BitVec.ofNat 8 (u / 256), BitVec.ofNat 8 u]
    decodeFrame (Frame.ofList (g ++ [sum8 g])) = .ok ⟨ra, st, v⟩

/-- 41_deserializer.md R86: the value conversions are inverse to each other. -/
def Obligations.ValueConversionsAreInverse : Prop :=
  (∀ v : Int, inI32 v = true → sext32 (u32Of v) = v) ∧ ∀ u : Word32, u32Of (sext32 u) = u

/-- 30_encoding.md R53 and the codes of R48: the four codes are the four operations; a larger value is none, is refused, and is not
reduced modulo 4. -/
def Obligations.OpCodesSelectTheOperations : Prop :=
  ∀ q : Request,
    (q.op = 0 → q.decode = .ok (.encode q.address q.command q.type q.motor q.value))
    ∧ (q.op = 1 → q.decode = .ok (.send q.address q.command q.type q.motor q.value))
    ∧ (q.op = 2 → q.decode = .ok (.check q.frameIn))
    ∧ (q.op = 3 → q.decode = .ok .poll)
    ∧ (4 ≤ q.op → q.decode = .error (.opOutOfRange q.op) ∧ ∀ s, issue q s = .next { s with refused := true })

/-- 30_encoding.md R49: fields an operation does not read are don't-care. -/
def Obligations.UnreadFieldsAreIgnored : Prop :=
  ∀ (q q' : Request) (s : State), q.op = q'.op →
    (q.op ≤ 1 → q.address = q'.address → q.command = q'.command → q.type = q'.type → q.motor = q'.motor →
      q.value = q'.value → issue q s = issue q' s)
    ∧ (q.op = 2 → q.frameIn = q'.frameIn → issue q s = issue q' s)
    ∧ (3 ≤ q.op → issue q s = issue q' s)

/-- Every well-formed operation, its 8-bit fields reduced, comes back from its encoding, whatever bytes follow; no bit of an operand
the encoding admits is dropped. The layout of the bytes other than `op` is the model's own (log entry 1). -/
def Obligations.DecodeGivesBackTheEncodedOperation : Prop :=
  ∀ (i : Instr) (rest : List Byte), i.wf = true → decodeBytes (encode i ++ rest) = .ok (i.reduce, rest)

/-- The other direction: whatever decodes is well-formed, has its 8-bit fields reduced, takes exactly 18 bytes, and comes back from
its own encoding. -/
def Obligations.DecodedOperationsAreWellFormed : Prop :=
  ∀ (bs : List Byte) (i : Instr) (rest : List Byte), decodeBytes bs = .ok (i, rest) →
    i.wf = true ∧ i.reduce = i ∧ bs = bs.take 18 ++ rest ∧ bs.length = 18 + rest.length
      ∧ decodeBytes (encode i ++ rest) = .ok (i, rest)

/-- A few words by spec/opcode_table.json's codes (30_encoding.md R48), the operands in the model's layout (log entry 1): ENCODE of the
source's example (95_test_vectors.md V-E1), CHECK of its frame, POLL, and an `op` of 4. -/
def Obligations.WrittenOutRequestsDecode : Prop :=
  decodeTableWord 8 0 = some (.encode 0 0 0 0 0)
  ∧ decodeTableWord 8 1 = some (.send 0 0 0 0 0)
  ∧ decodeTableWord 8 2 = some (.check [0, 0, 0, 0, 0, 0, 0, 0, 0])
  ∧ decodeTableWord 8 3 = some .poll
  ∧ decodeTableWord 8 4 = none
  ∧ decodeTableWord 72 0x50C300000100040100 = some (.encode 1 4 0 1 50000)
  ∧ decodeTableWord 144 0x1950C3000001000401000000000000000002
      = some (.check [0x01, 0x04, 0x00, 0x01, 0x00, 0x00, 0xC3, 0x50, 0x19])

/-- 10_state.md R15: where the next turn is the host's and its statement is a request for operation `i`, the step is `exec` of `i` with
the turn taken off the agenda; where the request is no operation, the step is a refusal. -/
def Obligations.StepRunsTheDecodedRequest : Prop :=
  ∀ (s : State) (q : Request), nextTurn s.agenda = .host → s.launch.program[s.hpc]? = some (.request q) →
    (∀ i, q.decode = .ok i → step s = exec i { s with agenda := s.agenda.tail })
    ∧ (∀ e, q.decode = .error e → step s = .next { s with refused := true, agenda := s.agenda.tail })

/-- A word placed for the next step is the operation the next step runs, for every state and every word that decodes; placing it
changes the program and the agenda only. -/
def Obligations.PlacedWordIsTheNextOperation : Prop :=
  ∀ (s : State) (nbits w : Nat) (i : Instr), decodeTableWord nbits w = some i →
    (s.withFetchWord nbits w).nextInstr = some i
    ∧ step (s.withFetchWord nbits w)
        = exec i { s.withFetchWord nbits w with agenda := (s.withFetchWord nbits w).agenda.tail }
    ∧ (s.withFetchWord nbits w).chan = s.chan ∧ (s.withFetchWord nbits w).hpc = s.hpc
    ∧ (s.withFetchWord nbits w).refused = s.refused ∧ (s.withFetchWord nbits w).resp = s.resp
    ∧ (s.withFetchWord nbits w).draws = s.draws

/-- 30_encoding.md R60: the host's own statements change `hpc` alone. `HALT` and the program's end leave the host where it is: the
model's choice (log entry 11). -/
def Obligations.HostStatementsMoveTheHostOnly : Prop :=
  ∀ s : State, nextTurn s.agenda = .host →
    (∀ tag target, s.launch.program[s.hpc]? = some (.br tag target) →
      (branchTaken s.resp tag = true → step s = .next { s with hpc := target, agenda := s.agenda.tail })
      ∧ (branchTaken s.resp tag = false → step s = .next { s with hpc := s.hpc + 1, agenda := s.agenda.tail }))
    ∧ (∀ target, s.launch.program[s.hpc]? = some (.jmp target) →
      step s = .next { s with hpc := target, agenda := s.agenda.tail })
    ∧ (s.launch.program[s.hpc]? = some .halt → step s = .next { s with agenda := s.agenda.tail })
    ∧ (s.launch.program[s.hpc]? = none → step s = .next { s with agenda := s.agenda.tail })

/-- 10_state.md R19 and 30_encoding.md R60: the tag of each response, the only condition a host can branch on. That no response and
ENCODE's frame have no tag is the model's choice (log entry 12). -/
def Obligations.ResponseTagsDecideBranches : Prop :=
  (∀ reply tag, branchTaken (some (.result (.ok reply))) tag = true ↔ tag = .ok)
  ∧ (∀ tag, branchTaken (some (.result .notReady)) tag = true ↔ tag = .notReady)
  ∧ (∀ tag, branchTaken (some (.result .checksumError)) tag = true ↔ tag = .ckErr)
  ∧ (∀ tag, branchTaken (some (.send (.sent 9))) tag = true ↔ tag = .sent9)
  ∧ (∀ (n : Fin 10) tag, n.val < 9 → (branchTaken (some (.send (.sent n))) tag = true ↔ tag = .short))
  ∧ (∀ tag, branchTaken (some (.send .writeFailed)) tag = true ↔ tag = .wFail)
  ∧ (∀ f tag, branchTaken (some (.frame f)) tag = false)
  ∧ (∀ tag, branchTaken none tag = false)

/-- 30_encoding.md R61: `WAIT L` is `L: POLL` and `BR.NOTREADY L`, wherever it stands in a listing. -/
def Obligations.WaitIsPollAndBranchBack : Prop :=
  ∀ (l : Nat) (pre rest : List Line), assemble (pre ++ .wait l :: rest)
    = assemble (pre ++ .label l :: .request ⟨3, 0, 0, 0, 0, 0, List.replicate 9 0⟩ :: .br .notReady l :: rest)

/-- 70_reset_and_hazards.md R115: a `WAIT` at statement `p` ends after the first POLL that finds 9 bytes, here after an arrival that
comes once `k` rounds of the loop found too few. -/
def Obligations.WaitEndsAfterTheArrival : Prop :=
  ∀ (k : Nat) (s : State) (q : Request) (bytes : List Byte) (keep : List Bool),
    q.op = 3 → s.launch.program[s.hpc]? = some (.request q) →
    s.launch.program[s.hpc + 1]? = some (.br .notReady s.hpc) →
    s.chan.isOpen = true → s.launch.readCanFail = false →
    s.agenda = List.replicate (2 * k) .host ++ [.arrive bytes keep] →
    s.chan.rx.length < 9 → 9 ≤ s.chan.rx.length + bytes.length → s.launch.fits (s.chan.rx ++ bytes) = true →
    ∃ t, Host.Core.run Sys2Proof.core (2 * k + 3) s = .next t ∧ t.hpc = s.hpc + 2
      ∧ t.chan.rx = (s.chan.rx ++ bytes).drop 9 ∧ t.refused = s.refused

/-- 70_reset_and_hazards.md R115: without arrivals a `WAIT` that finds too few bytes goes on for ever: any number of rounds leaves the
host at the same statement and the channel as it was. -/
def Obligations.WaitGoesOnWithoutArrivals : Prop :=
  ∀ (k : Nat) (s : State) (q : Request),
    q.op = 3 → s.launch.program[s.hpc]? = some (.request q) →
    s.launch.program[s.hpc + 1]? = some (.br .notReady s.hpc) →
    s.chan.isOpen = true → s.agenda = [] → s.chan.rx.length < 9 →
    ∃ t, Host.Core.run Sys2Proof.core (2 * k) s = .next t ∧ t.hpc = s.hpc ∧ t.chan = s.chan

/-- 10_state.md R24: an arrival appends to `rx`: everything if it fits, else a subsequence that fits; nothing else changes. -/
def Obligations.ArrivalAppendsToTheBuffer : Prop :=
  ∀ (s : State) (bytes : List Byte) (keep : List Bool), nextTurn s.agenda = .arrive bytes keep →
    ∃ d : List Byte,
      step s = .next { s with chan := { s.chan with rx := s.chan.rx ++ d }, agenda := s.agenda.tail }
      ∧ d.Sublist bytes
      ∧ (s.launch.fits (s.chan.rx ++ bytes) = true → d = bytes)
      ∧ (s.launch.fits s.chan.rx = true → s.launch.fits (s.chan.rx ++ d) = true)

/-- 10_state.md R24: at overflow the model shuts out no outcome: every subsequence of the arriving bytes that fits is delivered under
some draw. -/
def Obligations.OverflowMayDeliverAnyFittingSubsequence : Prop :=
  ∀ (l : Launch) (rx bytes d : List Byte), l.fits (rx ++ bytes) = false → d.Sublist bytes → l.fits (rx ++ d) = true →
    ∃ keep, l.deliver rx bytes keep = d

/-- 10_state.md R22: the transport layer sets and clears the open flag and nothing else. That `rx` and `tx` stay as they are is the
model's reading (log entry 14). -/
def Obligations.TransportSetsTheOpenFlag : Prop :=
  ∀ s : State,
    (nextTurn s.agenda = .openChannel →
      step s = .next { s with chan := { s.chan with isOpen := true }, agenda := s.agenda.tail })
    ∧ (nextTurn s.agenda = .closeChannel →
      step s = .next { s with chan := { s.chan with isOpen := false }, agenda := s.agenda.tail })

/-- 60_exceptions.md R97 with R92: a second agent's SEND or POLL on the channel is refused. -/
def Obligations.SecondAgentIsRefused : Prop :=
  ∀ s : State, nextTurn s.agenda = .secondAgent →
    step s = .next { s with refused := true, agenda := s.agenda.tail }

/-- 70_reset_and_hazards.md R105 and R104: a reset leaves `tx` as it was and `rx` as the channel holds it, and puts the host at its
first statement. That it opens the channel and keeps `refused` is the model's reading (log entry 16). -/
def Obligations.ResetKeepsTheTransmitLog : Prop :=
  ∀ (s : State) (rx0 : List Byte), nextTurn s.agenda = .reset rx0 → s.launch.fits rx0 = true →
    step s = .next { s with
      chan := { rx := rx0, tx := s.chan.tx, isOpen := true }
      hpc := 0, resp := none, agenda := s.agenda.tail }

/-- The frame of ENCODE and CHECK (40_serializer.md R66, 41_deserializer.md R78): nothing of the channel, the parameters, the draws or the
agenda changes, in any outcome. -/
def Obligations.EncodeAndCheckLeaveTheChannel : Prop :=
  ∀ s t : State,
    ((∃ a c ty m v, exec (.encode a c ty m v) s = .next t) ∨ ∃ bs, exec (.check bs) s = .next t) →
    t.chan = s.chan ∧ t.launch = s.launch ∧ t.draws = s.draws ∧ t.agenda = s.agenda

/-- The frame of SEND (40_serializer.md R68): `rx` and the open flag stay; every byte of `tx` written before stays in its place; the bytes
added are the drawn prefix of the frame, or none where the request is refused. -/
def Obligations.SendTouchesOnlyTheTransmitLog : Prop :=
  ∀ (a c ty m : Nat) (v : Int) (s t : State), exec (.send a c ty m v) s = .next t →
    t.chan.rx = s.chan.rx ∧ t.chan.isOpen = s.chan.isOpen ∧ t.launch = s.launch ∧ t.agenda = s.agenda
    ∧ (∀ j, j < s.chan.tx.length → t.chan.tx[j]? = s.chan.tx[j]?)
    ∧ (inI32 v = true ∧ s.chan.isOpen = true →
        t.chan.tx.drop s.chan.tx.length
          = (commandFrame a c ty m v).toList.take (acceptedBytes (writeDraw s.launch s.draws)))
    ∧ (¬(inI32 v = true ∧ s.chan.isOpen = true) → t.chan.tx = s.chan.tx ∧ t.draws = s.draws)

/-- The frame of POLL (41_deserializer.md R79): `tx` and the open flag stay, and `rx` loses its first 9 bytes or none. -/
def Obligations.PollTouchesOnlyTheReceiveBuffer : Prop :=
  ∀ s t : State, exec .poll s = .next t →
    t.chan.tx = s.chan.tx ∧ t.chan.isOpen = s.chan.isOpen ∧ t.launch = s.launch ∧ t.agenda = s.agenda
    ∧ (s.chan.isOpen = true → 9 ≤ s.chan.rx.length → t.chan.rx = s.chan.rx.drop 9)
    ∧ (s.chan.isOpen = false ∨ s.chan.rx.length < 9 → t.chan.rx = s.chan.rx)

/-- 10_state.md R18 and 60_exceptions.md R89: an operation that is not refused ends with a response of its own type, and CHECK's is never
`NotReady`. -/
def Obligations.EveryOperationAnswersInItsOwnType : Prop :=
  ∀ (i : Instr) (s t : State), exec i s = .next t →
    t = { s with refused := true } ∨
      match i with
      | .encode _ _ _ _ _ => ∃ f, t.resp = some (.frame f)
      | .send _ _ _ _ _ => ∃ r, t.resp = some (.send r)
      | .check _ => ∃ r, r ≠ Result.notReady ∧ t.resp = some (.result r)
      | .poll => ∃ r, t.resp = some (.result r)

/-- 60_exceptions.md R89: no operation faults or goes without an answer, but for a POLL on the open channel that finds 9 bytes or more
and whose read fails under `READ_CAN_FAIL` (R91; log entry 10). -/
def Obligations.OnlyAFailedReadStopsAnOperation : Prop :=
  ∀ (i : Instr) (s : State), (∃ t, exec i s = .next t)
    ∨ (i = .poll ∧ s.launch.readCanFail = true ∧ s.chan.isOpen = true ∧ 9 ≤ s.chan.rx.length
        ∧ s.draws.nextReadFails = true ∧ exec i s = .fault .readFailed)

/-- 60_exceptions.md R92: a refusal sets `refused` and changes nothing else; a step that sets it does no more (but that its turn is taken
off the agenda); and no step clears it. -/
def Obligations.RefusalIsStickyAndChangesNothingElse : Prop :=
  (∀ (s : State) (reason : Refusal), s.settle (.refuse reason) = { s with refused := true })
  ∧ ∀ s t : State, step s = .next t →
    (s.refused = true → t.refused = true)
    ∧ (s.refused = false → t.refused = true → t = { s with refused := true, agenda := s.agenda.tail })

/-- 10_state.md R21: only a SEND on the open channel changes `tx`, and over any run nothing is removed from it. -/
def Obligations.TransmitLogOnlyGrows : Prop :=
  (∀ s t : State, step s = .next t → t.chan.tx ≠ s.chan.tx →
    s.chan.isOpen = true ∧ ∃ a c ty m v, s.nextInstr = some (.send a c ty m v))
  ∧ ∀ (k : Nat) (s : State) (F : Flow), flow k s = some F → s.chan.tx <+: F.last.chan.tx

/-- 10_state.md R20 and R25: only POLL removes bytes from `rx`, 9 from its front. A reset, which replaces what the channel holds
(70_reset_and_hazards.md R105), is the model's own event (log entry 16) and is set aside. -/
def Obligations.OnlyPollRemovesReceivedBytes : Prop :=
  ∀ s t : State, step s = .next t → (∀ rx0, nextTurn s.agenda ≠ .reset rx0) →
    s.chan.rx <+: t.chan.rx
    ∨ (s.nextInstr = some .poll ∧ s.chan.isOpen = true ∧ 9 ≤ s.chan.rx.length ∧ t.chan.rx = s.chan.rx.drop 9)

/-- 41_deserializer.md R88: over any run without a reset, the bytes POLL consumed, cut into 9-byte windows, followed by the bytes left
in `rx`, are the bytes first there followed by the arrivals; and the answer to each window is that window decoded by itself. -/
def Obligations.ConsumedWindowsAreAPrefixOfTheBytesReceived : Prop :=
  ∀ (k : Nat) (s : State) (F : Flow), flow k s = some F → noReset s.agenda →
    F.windows.flatten ++ F.last.chan.rx = s.chan.rx ++ F.arrived
    ∧ (∀ w ∈ F.windows, w.length = 9)
    ∧ F.answers = F.windows.map fun w => some (.result (decodeFrame (Frame.ofList w)))

/-- 10_state.md R16: no rule of the block, and nothing else of the machine, reads the line configuration. -/
def Obligations.LineConfigurationIsNeverRead : Prop :=
  ∀ (s : State) (line : LineConfig),
    step { s with launch := { s.launch with line := line } }
      = match step s with
        | .next t => .next { t with launch := { t.launch with line := line } }
        | .fault r => .fault r
        | .refused r => .refused r

/-- 10_state.md R14 and R18: an operation reads its request and the channel alone: neither an earlier response nor the host's position,
program or refusal mark has any part in what it does. -/
def Obligations.OperationsReadNoEarlierResponse : Prop :=
  ∀ (i : Instr) (s t s' : State), exec i s = .next t →
    s'.chan = s.chan → s'.draws = s.draws → s'.launch.readCanFail = s.launch.readCanFail →
    s'.launch.writeAlwaysFull = s.launch.writeAlwaysFull →
    ∃ t', exec i s' = .next t' ∧ t'.chan = t.chan ∧ t'.draws = t.draws
      ∧ ((t = { s with refused := true } ∧ t' = { s' with refused := true })
        ∨ (t.resp = t'.resp ∧ t.hpc = s.hpc + 1 ∧ t'.hpc = s'.hpc + 1))

/-- 10_state.md R26: the parameters of a run are not state: no step changes them. -/
def Obligations.ParametersNeverChange : Prop :=
  ∀ s t : State, step s = .next t → t.launch = s.launch

/-- Every state that meets the invariant steps to states that meet it: the buffer stays within its capacity (10_state.md R24), replies
carry i32 values (00_scope.md R11), and under `WRITE_ALWAYS_FULL` the transmit log stays a sequence of whole frames with matching
checksums (40_serializer.md R70). That a reset's bytes are cut to the capacity is the model's choice (log entries 6 and 16). -/
def Obligations.StepKeepsTheInvariant : Prop :=
  ∀ s t : State, Inv s → step s = .next t → Inv t

/-- The invariant holds at the start of a run, for every choice of the parameters, and so after reset. That it holds for an `RX0` longer
than `RX_CAPACITY`, where 10_state.md R28 gives `rx = RX0`, rests on the model's choice to cut `RX0` to the capacity (log entry 6). -/
def Obligations.TheInvariantHoldsAtTheStart : Prop :=
  (∀ l rx0 d g, Inv (State.start l rx0 d g)) ∧ Inv State.reset
end

