-- ==== Sys2Proof/Laws/State.lean ====
section
/-! SUPPORT. One lemma a field for each update of the state, so that no later proof unfolds a record update. -/

namespace Sys2Proof.Machine

@[simp] theorem State.respond_chan (s : State) (c : Channel) (d : Draws) (r : Response) :
    (s.respond c d r).chan = c := rfl
@[simp] theorem State.respond_draws (s : State) (c : Channel) (d : Draws) (r : Response) :
    (s.respond c d r).draws = d := rfl
@[simp] theorem State.respond_resp (s : State) (c : Channel) (d : Draws) (r : Response) :
    (s.respond c d r).resp = some r := rfl
@[simp] theorem State.respond_hpc (s : State) (c : Channel) (d : Draws) (r : Response) :
    (s.respond c d r).hpc = s.hpc + 1 := rfl
@[simp] theorem State.respond_refused (s : State) (c : Channel) (d : Draws) (r : Response) :
    (s.respond c d r).refused = s.refused := rfl
@[simp] theorem State.respond_launch (s : State) (c : Channel) (d : Draws) (r : Response) :
    (s.respond c d r).launch = s.launch := rfl
@[simp] theorem State.respond_agenda (s : State) (c : Channel) (d : Draws) (r : Response) :
    (s.respond c d r).agenda = s.agenda := rfl

@[simp] theorem State.refuse_chan (s : State) : s.refuse.chan = s.chan := rfl
@[simp] theorem State.refuse_draws (s : State) : s.refuse.draws = s.draws := rfl
@[simp] theorem State.refuse_resp (s : State) : s.refuse.resp = s.resp := rfl
@[simp] theorem State.refuse_hpc (s : State) : s.refuse.hpc = s.hpc := rfl
@[simp] theorem State.refuse_refused (s : State) : s.refuse.refused = true := rfl
@[simp] theorem State.refuse_launch (s : State) : s.refuse.launch = s.launch := rfl
@[simp] theorem State.refuse_agenda (s : State) : s.refuse.agenda = s.agenda := rfl

@[simp] theorem State.settle_respond (s : State) (c : Channel) (d : Draws) (r : Response) :
    s.settle (.respond c d r) = s.respond c d r := rfl
@[simp] theorem State.settle_refuse (s : State) (reason : Refusal) : s.settle (.refuse reason) = s.refuse := rfl

@[simp] theorem State.arrive_tx (s : State) (bytes : List Byte) (keep : List Bool) :
    (s.arrive bytes keep).chan.tx = s.chan.tx := rfl
@[simp] theorem State.arrive_isOpen (s : State) (bytes : List Byte) (keep : List Bool) :
    (s.arrive bytes keep).chan.isOpen = s.chan.isOpen := rfl
@[simp] theorem State.arrive_rx (s : State) (bytes : List Byte) (keep : List Bool) :
    (s.arrive bytes keep).chan.rx = s.chan.rx ++ s.launch.deliver s.chan.rx bytes keep := rfl
@[simp] theorem State.arrive_resp (s : State) (bytes : List Byte) (keep : List Bool) :
    (s.arrive bytes keep).resp = s.resp := rfl
@[simp] theorem State.arrive_hpc (s : State) (bytes : List Byte) (keep : List Bool) :
    (s.arrive bytes keep).hpc = s.hpc := rfl
@[simp] theorem State.arrive_refused (s : State) (bytes : List Byte) (keep : List Bool) :
    (s.arrive bytes keep).refused = s.refused := rfl
@[simp] theorem State.arrive_launch (s : State) (bytes : List Byte) (keep : List Bool) :
    (s.arrive bytes keep).launch = s.launch := rfl
@[simp] theorem State.arrive_draws (s : State) (bytes : List Byte) (keep : List Bool) :
    (s.arrive bytes keep).draws = s.draws := rfl
@[simp] theorem State.arrive_agenda (s : State) (bytes : List Byte) (keep : List Bool) :
    (s.arrive bytes keep).agenda = s.agenda := rfl

@[simp] theorem State.setOpen_rx (s : State) (b : Bool) : (s.setOpen b).chan.rx = s.chan.rx := rfl
@[simp] theorem State.setOpen_tx (s : State) (b : Bool) : (s.setOpen b).chan.tx = s.chan.tx := rfl
@[simp] theorem State.setOpen_isOpen (s : State) (b : Bool) : (s.setOpen b).chan.isOpen = b := rfl
@[simp] theorem State.setOpen_resp (s : State) (b : Bool) : (s.setOpen b).resp = s.resp := rfl
@[simp] theorem State.setOpen_hpc (s : State) (b : Bool) : (s.setOpen b).hpc = s.hpc := rfl
@[simp] theorem State.setOpen_refused (s : State) (b : Bool) : (s.setOpen b).refused = s.refused := rfl
@[simp] theorem State.setOpen_launch (s : State) (b : Bool) : (s.setOpen b).launch = s.launch := rfl
@[simp] theorem State.setOpen_draws (s : State) (b : Bool) : (s.setOpen b).draws = s.draws := rfl
@[simp] theorem State.setOpen_agenda (s : State) (b : Bool) : (s.setOpen b).agenda = s.agenda := rfl

@[simp] theorem State.resetTurn_rx (s : State) (rx0 : List Byte) : (s.resetTurn rx0).chan.rx = s.launch.cut rx0 := rfl
@[simp] theorem State.resetTurn_tx (s : State) (rx0 : List Byte) : (s.resetTurn rx0).chan.tx = s.chan.tx := rfl
@[simp] theorem State.resetTurn_isOpen (s : State) (rx0 : List Byte) : (s.resetTurn rx0).chan.isOpen = true := rfl
@[simp] theorem State.resetTurn_resp (s : State) (rx0 : List Byte) : (s.resetTurn rx0).resp = none := rfl
@[simp] theorem State.resetTurn_hpc (s : State) (rx0 : List Byte) : (s.resetTurn rx0).hpc = 0 := rfl
@[simp] theorem State.resetTurn_refused (s : State) (rx0 : List Byte) : (s.resetTurn rx0).refused = s.refused := rfl
@[simp] theorem State.resetTurn_launch (s : State) (rx0 : List Byte) : (s.resetTurn rx0).launch = s.launch := rfl
@[simp] theorem State.resetTurn_draws (s : State) (rx0 : List Byte) : (s.resetTurn rx0).draws = s.draws := rfl
@[simp] theorem State.resetTurn_agenda (s : State) (rx0 : List Byte) : (s.resetTurn rx0).agenda = s.agenda := rfl

@[simp] theorem State.start_rx (l : Launch) (rx0 : List Byte) (d : Draws) (g : List Turn) :
    (State.start l rx0 d g).chan.rx = l.cut rx0 := rfl
@[simp] theorem State.start_tx (l : Launch) (rx0 : List Byte) (d : Draws) (g : List Turn) :
    (State.start l rx0 d g).chan.tx = [] := rfl
@[simp] theorem State.start_isOpen (l : Launch) (rx0 : List Byte) (d : Draws) (g : List Turn) :
    (State.start l rx0 d g).chan.isOpen = true := rfl
@[simp] theorem State.start_hpc (l : Launch) (rx0 : List Byte) (d : Draws) (g : List Turn) :
    (State.start l rx0 d g).hpc = 0 := rfl
@[simp] theorem State.start_refused (l : Launch) (rx0 : List Byte) (d : Draws) (g : List Turn) :
    (State.start l rx0 d g).refused = false := rfl
@[simp] theorem State.start_draws (l : Launch) (rx0 : List Byte) (d : Draws) (g : List Turn) :
    (State.start l rx0 d g).draws = d := rfl
@[simp] theorem State.start_agenda (l : Launch) (rx0 : List Byte) (d : Draws) (g : List Turn) :
    (State.start l rx0 d g).agenda = g := rfl
@[simp] theorem State.start_resp (l : Launch) (rx0 : List Byte) (d : Draws) (g : List Turn) :
    (State.start l rx0 d g).resp = none := rfl
@[simp] theorem State.start_launch (l : Launch) (rx0 : List Byte) (d : Draws) (g : List Turn) :
    (State.start l rx0 d g).launch = l := rfl

@[simp] theorem State.withStmt_chan (s : State) (t : Stmt) : (s.withStmt t).chan = s.chan := rfl
@[simp] theorem State.withStmt_hpc (s : State) (t : Stmt) : (s.withStmt t).hpc = s.hpc := rfl
@[simp] theorem State.withStmt_refused (s : State) (t : Stmt) : (s.withStmt t).refused = s.refused := rfl
@[simp] theorem State.withStmt_resp (s : State) (t : Stmt) : (s.withStmt t).resp = s.resp := rfl
@[simp] theorem State.withStmt_draws (s : State) (t : Stmt) : (s.withStmt t).draws = s.draws := rfl
@[simp] theorem State.withStmt_agenda (s : State) (t : Stmt) : (s.withStmt t).agenda = hostFirst s.agenda := rfl
@[simp] theorem State.withStmt_program (s : State) (t : Stmt) :
    (s.withStmt t).launch.program = placeStmt t s.hpc s.launch.program := rfl

end Sys2Proof.Machine
end

