-- ==== Sys2Proof/Laws/Operands.lean ====
section
/-! SUPPORT. The operand conversions as arithmetic on integers, and a frame as a sequence of nine bytes. -/

namespace Sys2Proof

theorem inI32_iff (v : Int) : inI32 v = true ↔ -2147483648 ≤ v ∧ v ≤ 2147483647 := by
  simp [inI32]

theorem toU8_toNat (n : Nat) : (toU8 n).toNat = n % 256 := by simp [toU8]

@[simp] theorem toU8_mod (n : Nat) : toU8 (n % 256) = toU8 n := by
  apply BitVec.eq_of_toNat_eq
  simp [toU8_toNat]

@[simp] theorem toU8_byte (b : Byte) : toU8 b.toNat = b := by simp [toU8]

theorem u32Of_toNat (v : Int) : (u32Of v).toNat = (v % 4294967296).toNat := by
  simp [u32Of, BitVec.toNat_ofInt]

theorem byteAt_eq_ofNat (u : Word32) (lo : Nat) : byteAt u lo = BitVec.ofNat 8 (u.toNat / 2 ^ lo) := by
  apply BitVec.eq_of_toNat_eq
  simp [byteAt, BitVec.extractLsb'_toNat, Nat.shiftRight_eq_div_pow]

theorem byteAt_toNat (u : Word32) (lo : Nat) : (byteAt u lo).toNat = u.toNat / 2 ^ lo % 256 := by
  simp [byteAt_eq_ofNat]

theorem joinBytes_toNat (b4 b5 b6 b7 : Byte) :
    (joinBytes b4 b5 b6 b7).toNat
      = b4.toNat * 16777216 + b5.toNat * 65536 + b6.toNat * 256 + b7.toNat := by
  simp only [joinBytes, BitVec.toNat_ofNat]
  omega

/-- Reassembling the four bytes of a pattern gives the pattern back (20_memory.md R32). -/
@[simp] theorem joinBytes_byteAt (u : Word32) :
    joinBytes (byteAt u 24) (byteAt u 16) (byteAt u 8) (byteAt u 0) = u := by
  apply BitVec.eq_of_toNat_eq
  rw [joinBytes_toNat]
  simp only [byteAt_toNat]
  omega

theorem byteAt_joinBytes_24 (b4 b5 b6 b7 : Byte) : byteAt (joinBytes b4 b5 b6 b7) 24 = b4 := by
  apply BitVec.eq_of_toNat_eq
  rw [byteAt_toNat, joinBytes_toNat]
  omega

theorem byteAt_joinBytes_16 (b4 b5 b6 b7 : Byte) : byteAt (joinBytes b4 b5 b6 b7) 16 = b5 := by
  apply BitVec.eq_of_toNat_eq
  rw [byteAt_toNat, joinBytes_toNat]
  omega

theorem byteAt_joinBytes_8 (b4 b5 b6 b7 : Byte) : byteAt (joinBytes b4 b5 b6 b7) 8 = b6 := by
  apply BitVec.eq_of_toNat_eq
  rw [byteAt_toNat, joinBytes_toNat]
  omega

theorem byteAt_joinBytes_0 (b4 b5 b6 b7 : Byte) : byteAt (joinBytes b4 b5 b6 b7) 0 = b7 := by
  apply BitVec.eq_of_toNat_eq
  rw [byteAt_toNat, joinBytes_toNat]
  omega

/-- Sign extension always gives an `i32` (00_scope.md R9). -/
theorem inI32_sext32 (u : Word32) : inI32 (sext32 u) = true := by
  rw [inI32_iff, sext32]
  split <;> omega

@[simp] theorem Frame.toList_length (f : Frame) : f.toList.length = 9 := rfl

@[simp] theorem Frame.ofList_toList (f : Frame) : Frame.ofList f.toList = f := rfl

/-- A sequence of exactly nine bytes, written out. -/
theorem exists_nine_of_length {bs : List Byte} (h : bs.length = 9) :
    ∃ b0 b1 b2 b3 b4 b5 b6 b7 b8, bs = [b0, b1, b2, b3, b4, b5, b6, b7, b8] := by
  match bs, h with
  | [b0, b1, b2, b3, b4, b5, b6, b7, b8], _ => exact ⟨b0, b1, b2, b3, b4, b5, b6, b7, b8, rfl⟩

theorem Frame.toList_ofList {bs : List Byte} (h : bs.length = 9) : (Frame.ofList bs).toList = bs := by
  obtain ⟨b0, b1, b2, b3, b4, b5, b6, b7, b8, rfl⟩ := exists_nine_of_length h
  rfl

/-- A sequence of nine bytes or more, its first nine written out. -/
theorem exists_nine_of_le {bs : List Byte} (h : 9 ≤ bs.length) :
    ∃ b0 b1 b2 b3 b4 b5 b6 b7 b8 rest, bs = b0 :: b1 :: b2 :: b3 :: b4 :: b5 :: b6 :: b7 :: b8 :: rest := by
  match bs, h with
  | b0 :: b1 :: b2 :: b3 :: b4 :: b5 :: b6 :: b7 :: b8 :: rest, _ =>
    exact ⟨b0, b1, b2, b3, b4, b5, b6, b7, b8, rest, rfl⟩

@[simp] theorem Instr.reduce_wf (i : Instr) : i.reduce.wf = i.wf := by cases i <;> rfl

/-- A request that decodes is well-formed exactly when its operation is. -/
theorem Request.wf_of_decode_ok {q : Request} {i : Instr} (h : q.decode = .ok i) : i.wf = q.wf := by
  obtain ⟨op, a, c, t, m, v, bs⟩ := q
  match op with
  | 0 => cases h; rfl
  | 1 => cases h; rfl
  | 2 => cases h; rfl
  | 3 => cases h; rfl
  | _ + 4 => cases h

/-- A request that decodes to no operation is not well-formed. -/
theorem Request.wf_of_decode_error {q : Request} {e : DecodeError} (h : q.decode = .error e) : q.wf = false := by
  obtain ⟨op, a, c, t, m, v, bs⟩ := q
  match op with
  | 0 => cases h
  | 1 => cases h
  | 2 => cases h
  | 3 => cases h
  | n + 4 => simp [Request.wf, opInRange]

end Sys2Proof
end

