-- ==== Sys2Proof/Laws/Ops.lean ====
section
/-! SUPPORT. What each shared operation can do: the checksum as a sum of bytes, the channel's buffer within its capacity,
deliveries, and placing a statement. -/

namespace Sys2Proof.Machine

@[simp] theorem sum8_nil : sum8 [] = 0 := rfl

theorem sum8_cons (b : Byte) (s : List Byte) : sum8 (b :: s) = b + sum8 s := by
  apply BitVec.eq_of_toNat_eq
  simp [sum8, BitVec.toNat_add]

/-- The checksum as a sum of bytes, each addition modulo 256. -/
theorem checksum_eq_add (f : Frame) :
    checksum f = f.b0 + (f.b1 + (f.b2 + (f.b3 + (f.b4 + (f.b5 + (f.b6 + f.b7)))))) := by
  simp [checksum, Frame.toList, sum8_cons]

theorem checksum_commandFrame (a c t m : Nat) (v : Int) :
    validFrame (commandFrame a c t m v) := by
  simp [validFrame, commandFrame, checksum_eq_add]

/-- DECODE_FRAME rejects a frame exactly when its checksum disagrees (30_encoding.md R57). -/
theorem decodeFrame_eq_checksumError (f : Frame) : decodeFrame f = .checksumError ↔ ¬ validFrame f := by
  unfold decodeFrame validFrame
  split <;> simp_all

theorem decodeFrame_ne_notReady (f : Frame) : decodeFrame f ≠ .notReady := by
  unfold decodeFrame
  split <;> simp

theorem decodeFrame_ok_value {f : Frame} {reply : Reply} (h : decodeFrame f = .ok reply) :
    inI32 reply.value = true := by
  unfold decodeFrame at h
  split at h
  · cases h
    exact inI32_sext32 _
  · cases h

@[simp] theorem Launch.fits_cut (l : Launch) (bs : List Byte) : l.fits (l.cut bs) = true := by
  unfold Launch.fits Launch.cut
  split <;> simp [*]

theorem Launch.cut_of_fits {l : Launch} {bs : List Byte} (h : l.fits bs = true) : l.cut bs = bs := by
  unfold Launch.fits at h
  unfold Launch.cut
  split at h <;> simp_all [List.take_of_length_le]

theorem Launch.fits_of_length_le {l : Launch} {bs bs' : List Byte} (h : l.fits bs = true)
    (hle : bs'.length ≤ bs.length) : l.fits bs' = true := by
  unfold Launch.fits at *
  split at h <;> simp_all
  omega

theorem pick_sublist (bs : List Byte) (keep : List Bool) : (pick bs keep).Sublist bs := by
  induction bs generalizing keep with
  | nil => cases keep <;> simp [pick]
  | cons b bs ih =>
    match keep with
    | [] => simp [pick]
    | true :: keep => exact (ih keep).cons_cons b
    | false :: keep => exact (ih keep).cons b

theorem Launch.deliver_of_fits {l : Launch} {rx bs : List Byte} (keep : List Bool)
    (h : l.fits (rx ++ bs) = true) : l.deliver rx bs keep = bs := by
  simp [Launch.deliver, h]

theorem Launch.deliver_sublist (l : Launch) (rx bs : List Byte) (keep : List Bool) :
    (l.deliver rx bs keep).Sublist bs := by
  unfold Launch.deliver
  split
  · simp
  · split
    · simp
    · exact (List.take_sublist _ _).trans (pick_sublist bs keep)

theorem Launch.fits_deliver {l : Launch} {rx bs : List Byte} (keep : List Bool) (h : l.fits rx = true) :
    l.fits (rx ++ l.deliver rx bs keep) = true := by
  unfold Launch.deliver
  split
  · assumption
  · rename_i hno
    unfold Launch.fits at *
    split at h <;> simp_all
    omega

/-- A placed statement is found where it was placed. -/
@[simp] theorem placeStmt_getElem? (t : Stmt) (n : Nat) (program : List Stmt) :
    (placeStmt t n program)[n]? = some t := by
  induction n generalizing program with
  | zero => cases program <;> simp [placeStmt]
  | succ n ih => cases program <;> simp [placeStmt, ih]

@[simp] theorem nextTurn_hostFirst (agenda : List Turn) : nextTurn (hostFirst agenda) = .host := by
  match agenda with
  | [] => rfl
  | .host :: _ => rfl
  | .arrive _ _ :: _ => rfl
  | .openChannel :: _ => rfl
  | .closeChannel :: _ => rfl
  | .secondAgent :: _ => rfl
  | .reset _ :: _ => rfl

theorem noReset_tail {agenda : List Turn} (h : noReset agenda) : noReset agenda.tail :=
  fun rx0 hmem => h rx0 (List.mem_of_mem_tail hmem)

theorem nextTurn_ne_reset {agenda : List Turn} (h : noReset agenda) (rx0 : List Byte) :
    nextTurn agenda ≠ .reset rx0 := by
  cases agenda with
  | nil => simp [nextTurn]
  | cons t rest =>
    intro heq
    exact h rx0 (by simp_all [nextTurn])

end Sys2Proof.Machine
end

