-- ==== Sys2Proof/Laws/PerInstr.lean ====
section
/-! SUPPORT. The statement about every operation as syntax, one lemma a constructor: its encoding is 18 bytes whose first is the
operation's code (30_encoding.md R48), and reduction keeps it well-formed. -/

namespace Sys2Proof

/-- The operation code of 30_encoding.md R48. -/
def opCode : Instr → Nat
  | .encode _ _ _ _ _ => 0
  | .send _ _ _ _ _ => 1
  | .check _ => 2
  | .poll => 3

end Sys2Proof

namespace Sys2Proof.Laws.EncodedForm

/-- The encoding's length and its code byte, and that the reduced operation has the same encoding. -/
def Statement (i : Instr) : Prop :=
  (encode i).length = 18 ∧ (encode i).head? = some (BitVec.ofNat 8 (opCode i)) ∧ encode i.reduce = encode i

theorem encode (address command type motor : Nat) (value : Int) :
    Statement (.encode address command type motor value) :=
  ⟨rfl, rfl, by simp [Sys2Proof.encode, Instr.reduce, Instr.toRequest, Request.toLayout]⟩

theorem send (address command type motor : Nat) (value : Int) :
    Statement (.send address command type motor value) :=
  ⟨rfl, rfl, by simp [Sys2Proof.encode, Instr.reduce, Instr.toRequest, Request.toLayout]⟩

theorem check (frameIn : List Byte) : Statement (.check frameIn) :=
  ⟨rfl, rfl, rfl⟩

theorem poll : Statement .poll :=
  ⟨rfl, rfl, rfl⟩

end Sys2Proof.Laws.EncodedForm
end

