-- ==== Sys2Proof/Laws/Step.lean ====
section
/-! SUPPORT. What one operation and one step can do, said once. -/

namespace Sys2Proof.Machine

/-- Everything an operation's next state can be: refused, or one of the four operations answered. -/
theorem exec_cases {i : Instr} {s t : State} (h : exec i s = .next t) :
    t = s.refuse
    ∨ (∃ a c ty m v, i = .encode a c ty m v ∧ inI32 v = true
        ∧ t = s.respond s.chan s.draws (.frame (commandFrame a c ty m v)))
    ∨ (∃ a c ty m v, i = .send a c ty m v ∧ inI32 v = true ∧ s.chan.isOpen = true
        ∧ t = s.respond (s.chan.write (commandFrame a c ty m v).toList (writeDraw s.launch s.draws)) s.draws.afterWrite
            (.send (writeResult (writeDraw s.launch s.draws))))
    ∨ (∃ bs, i = .check bs ∧ bs.length = 9
        ∧ t = s.respond s.chan s.draws (.result (decodeFrame (Frame.ofList bs))))
    ∨ (i = .poll ∧ s.chan.isOpen = true ∧ s.chan.rx.length < 9 ∧ t = s.respond s.chan s.draws (.result .notReady))
    ∨ (i = .poll ∧ s.chan.isOpen = true ∧ 9 ≤ s.chan.rx.length
        ∧ t = s.respond { s.chan with rx := s.chan.rx.drop 9 } (drawsAfterRead s.launch s.draws)
            (.result (decodeFrame (Frame.ofList (s.chan.rx.take 9))))) := by
  cases i with
  | encode a c ty m v =>
    simp only [exec, execEncode, encodeVerdict] at h
    split at h
    · exact .inr (.inl ⟨a, c, ty, m, v, rfl, ‹_›, by simpa using h.symm⟩)
    · exact .inl (by simpa using h.symm)
  | send a c ty m v =>
    simp only [exec, execSend, sendVerdict] at h
    split at h
    · split at h
      · exact .inr (.inr (.inl ⟨a, c, ty, m, v, rfl, ‹_›, ‹_›, by simpa using h.symm⟩))
      · exact .inl (by simpa using h.symm)
    · exact .inl (by simpa using h.symm)
  | check bs =>
    simp only [exec, execCheck, checkVerdict] at h
    split at h
    · rename_i hlen
      exact .inr (.inr (.inr (.inl ⟨bs, rfl, by simpa [isFrameLength] using hlen, by simpa using h.symm⟩)))
    · exact .inl (by simpa using h.symm)
  | poll =>
    simp only [exec, execPoll] at h
    split at h
    · cases h
    · by_cases hopen : s.chan.isOpen = true
      · by_cases hlen : s.chan.rx.length < 9
        · exact .inr (.inr (.inr (.inr (.inl ⟨rfl, hopen, hlen,
            by simpa [pollVerdict, Channel.rxAvail, hopen, hlen] using h.symm⟩))))
        · exact .inr (.inr (.inr (.inr (.inr ⟨rfl, hopen, by omega,
            by simpa [pollVerdict, Channel.rxAvail, Channel.read, hopen, hlen] using h.symm⟩))))
      · exact .inl (by simpa [pollVerdict, hopen] using h.symm)

/-- No operation changes the parameters or the agenda. -/
theorem exec_launch_agenda {i : Instr} {s t : State} (h : exec i s = .next t) :
    t.launch = s.launch ∧ t.agenda = s.agenda := by
  rcases exec_cases h with rfl | ⟨_, _, _, _, _, -, -, rfl⟩ | ⟨_, _, _, _, _, -, -, -, rfl⟩ | ⟨_, -, -, rfl⟩
    | ⟨-, -, -, rfl⟩ | ⟨-, -, -, rfl⟩ <;> simp

/-- Everything a host's turn can come to: an operation, a refused request, or the host moving without touching the block. -/
theorem hostTurn_cases {s t : State} (h : hostTurn s = .next t) :
    (∃ q i, s.launch.program[s.hpc]? = some (.request q) ∧ q.decode = .ok i ∧ exec i s = .next t)
    ∨ (∃ q e, s.launch.program[s.hpc]? = some (.request q) ∧ q.decode = .error e ∧ t = s.refuse)
    ∨ (∃ hpc, t = { s with hpc := hpc } ∧ ∀ q, s.launch.program[s.hpc]? ≠ some (.request q)) := by
  unfold hostTurn at h
  split at h
  · rename_i stmt hstmt
    cases stmt with
    | request q =>
      simp only [runStmt, issue] at h
      split at h
      · exact .inl ⟨q, _, hstmt, ‹_›, h⟩
      · exact .inr (.inl ⟨q, _, hstmt, ‹_›, by simpa using h.symm⟩)
    | br tag target => exact .inr (.inr ⟨_, by simpa [runStmt] using h.symm, by simp [hstmt]⟩)
    | jmp target => exact .inr (.inr ⟨_, by simpa [runStmt] using h.symm, by simp [hstmt]⟩)
    | halt => exact .inr (.inr ⟨s.hpc, by simpa [runStmt] using h.symm, by simp [hstmt]⟩)
  · rename_i hnone
    exact .inr (.inr ⟨s.hpc, by simpa using h.symm, by simp [hnone]⟩)

/-- Everything a step's next state can be, by whose turn it is. -/
theorem step_cases {s t : State} (h : step s = .next t) :
    (nextTurn s.agenda = .host ∧ hostTurn { s with agenda := s.agenda.tail } = .next t)
    ∨ (∃ bytes keep, nextTurn s.agenda = .arrive bytes keep
        ∧ t = State.arrive { s with agenda := s.agenda.tail } bytes keep)
    ∨ (∃ isOpen, (nextTurn s.agenda = .openChannel ∧ isOpen = true ∨ nextTurn s.agenda = .closeChannel ∧ isOpen = false)
        ∧ t = State.setOpen { s with agenda := s.agenda.tail } isOpen)
    ∨ (nextTurn s.agenda = .secondAgent ∧ t = State.refuse { s with agenda := s.agenda.tail })
    ∨ (∃ rx0, nextTurn s.agenda = .reset rx0 ∧ t = State.resetTurn { s with agenda := s.agenda.tail } rx0) := by
  unfold step at h
  generalize hturn : nextTurn s.agenda = turn at h
  cases turn with
  | host => exact .inl ⟨rfl, h⟩
  | arrive bytes keep => exact .inr (.inl ⟨bytes, keep, rfl, by simpa [runTurn] using h.symm⟩)
  | openChannel => exact .inr (.inr (.inl ⟨true, .inl ⟨rfl, rfl⟩, by simpa [runTurn] using h.symm⟩))
  | closeChannel => exact .inr (.inr (.inl ⟨false, .inr ⟨rfl, rfl⟩, by simpa [runTurn] using h.symm⟩))
  | secondAgent => exact .inr (.inr (.inr (.inl ⟨rfl, by simpa [runTurn] using h.symm⟩)))
  | reset rx0 => exact .inr (.inr (.inr (.inr ⟨rx0, rfl, by simpa [runTurn] using h.symm⟩)))

/-- The operation the next step runs, from the parts of the state it is read from. -/
theorem nextInstr_eq_some {s : State} {q : Request} {i : Instr} (hturn : nextTurn s.agenda = .host)
    (hstmt : s.launch.program[s.hpc]? = some (.request q)) (hdec : q.decode = .ok i) : s.nextInstr = some i := by
  simp [State.nextInstr, hturn, hstmt, hdec]

/-- And back: where there is one, the turn is the host's and its statement is a request for it. -/
theorem nextInstr_cases {s : State} {i : Instr} (h : s.nextInstr = some i) :
    nextTurn s.agenda = .host ∧ ∃ q, s.launch.program[s.hpc]? = some (.request q) ∧ q.decode = .ok i := by
  unfold State.nextInstr at h
  split at h
  · rename_i q hturn hstmt
    split at h
    · cases h
      exact ⟨hturn, q, hstmt, ‹_›⟩
    · cases h
  · cases h

/-- `WAIT` expands line by line. -/
theorem expandWait_append (pre rest : List Line) : expandWait (pre ++ rest) = expandWait pre ++ expandWait rest := by
  induction pre with
  | nil => rfl
  | cons line pre ih => cases line <;> simp [expandWait, ih]

/-- What a POLL without a step finds (60_exceptions.md R91). -/
theorem readStuck_iff (l : Launch) (c : Channel) (d : Draws) : readStuck l c d = true ↔
    l.readCanFail = true ∧ c.isOpen = true ∧ 9 ≤ c.rx.length ∧ d.nextReadFails = true := by
  simp only [readStuck, Bool.and_eq_true, decide_eq_true_eq]
  exact Iff.rfl

/-- A run whose first step answers goes on from there. -/
theorem core_run_succ {s t : State} (k : Nat) (h : step s = .next t) :
    Host.Core.run Sys2Proof.core (k + 1) s = Host.Core.run Sys2Proof.core k t := by
  have hcore : Sys2Proof.core.step s = .next t := h
  simp [Host.Core.run, hcore]

end Sys2Proof.Machine
end

