-- ==== Sys2Proof/Tests/Slice0.lean ====
section
/-! SUPPORT. The model's own tests. Expected results are the vectors of 95_test_vectors.md (named in each comment) or are written
out by hand from the rules; the witnesses show that each statement's hypotheses can be met. -/

namespace Sys2Proof.Tests

open Sys2Proof Sys2Proof.Machine

/-- Parameters with everything written out: an unbounded buffer, both switches off, the given program. -/
def launchOf (program : List Stmt) : Launch where
  rxCapacity := none
  writeAlwaysFull := false
  readCanFail := false
  line := ⟨9600, 8, .noParity, 1, true, false, true, true⟩
  program := program

/-- A state at the start of a run with `rx` in the buffer and one write draw to come. -/
def stateWith (rx : List Byte) (w : WriteDraw) (program : List Stmt) (agenda : List Turn) : State :=
  State.start (launchOf program) rx ⟨[w], [], 0⟩ agenda

/-- The start with `rx` in the buffer, the next write full, no program, the host's turn. -/
def idle (rx : List Byte) : State := stateWith rx .full [] []

/-- The same on a closed channel. -/
def idleClosed (rx : List Byte) : State := (idle rx).setOpen false

/-- The same with READ_CAN_FAIL on and the given read draw. -/
def idleReads (rx : List Byte) (b : Bool) : State :=
  { idle rx with launch := { launchOf [] with readCanFail := true }, draws := ⟨[], [b], 0⟩ }

/-- The same with a buffer of `capacity` bytes. -/
def idleBounded (capacity : Nat) (rx : List Byte) (agenda : List Turn) : State :=
  State.start { launchOf [] with rxCapacity := some capacity } rx ⟨[], [], 0⟩ agenda

def nextOf : Host.Outcome State Fault Refusal → Option State
  | .next s => some s
  | _ => none

/-- `F1` of 95_test_vectors.md. -/
def f1 : List Byte := [0x02, 0x01, 0x64, 0x04, 0x00, 0x00, 0xC3, 0x50, 0x7E]

/-- The frame of V-E1. -/
def e1 : List Byte := [0x01, 0x04, 0x00, 0x01, 0x00, 0x00, 0xC3, 0x50, 0x19]

def pollRequest : Request := ⟨3, 0, 0, 0, 0, 0, []⟩

/-! ### Well-formedness: for each check a term it refuses and the nearest it accepts -/

/-- V-R2 -/
theorem test_wf_value_high : Instr.wf (.encode 1 4 0 1 2147483648) = false ∧ Instr.wf (.encode 1 4 0 1 2147483647) = true := by
  decide
theorem test_wf_value_low : Instr.wf (.send 1 4 0 1 (-2147483649)) = false ∧ Instr.wf (.send 1 4 0 1 (-2147483648)) = true := by
  decide
/-- V-R3 -/
theorem test_wf_frame_length : Instr.wf (.check (f1.take 8)) = false ∧ Instr.wf (.check f1) = true := by decide
theorem test_wf_frame_too_long : Instr.wf (.check (f1 ++ [0])) = false := by decide
/-- V-R1 -/
theorem test_wf_op : Request.wf { pollRequest with op := 4 } = false ∧ Request.wf pollRequest = true := by decide
theorem test_wf_request_value : Request.wf ⟨0, 1, 4, 0, 1, 2147483648, []⟩ = false
    ∧ Request.wf ⟨1, 1, 4, 0, 1, -2147483649, []⟩ = false ∧ Request.wf ⟨2, 0, 0, 0, 0, 0, [1]⟩ = false := by decide

/-! ### Decoding: each operation's words, written out by hand (30_encoding.md R48; the layout of log entry 1) -/

/-- ENCODE 1, 4, 0, 1, 50000: op 00, then 01 04 00 01, then 00 00 C3 50. -/
theorem test_decode_encode : decodeBytes ([0x00, 0x01, 0x04, 0x00, 0x01, 0x00, 0x00, 0xC3, 0x50] ++ List.replicate 9 0)
    = .ok (.encode 1 4 0 1 50000, []) := by rfl
/-- SEND 1, 6, 1, 0, -1: op 01, then 01 06 01 00, then FF FF FF FF; a byte follows. -/
theorem test_decode_send : decodeBytes ([0x01, 0x01, 0x06, 0x01, 0x00, 0xFF, 0xFF, 0xFF, 0xFF] ++ List.replicate 9 0 ++ [0xAA])
    = .ok (.send 1 6 1 0 (-1), [0xAA]) := by rfl
/-- CHECK F1: op 10, the fields it does not read holding anything. -/
theorem test_decode_check : decodeBytes ([0x02, 0x55, 0x55, 0x55, 0x55, 0x55, 0x55, 0x55, 0x55] ++ f1) = .ok (.check f1, []) := by
  rfl
theorem test_decode_poll : decodeBytes (0x03 :: List.replicate 17 0xFF) = .ok (.poll, []) := by rfl
theorem test_decode_op_4 : decodeBytes (0x04 :: List.replicate 17 0) = .error (.opOutOfRange 4) := by rfl
theorem test_decode_truncated : decodeBytes (List.replicate 17 0) = .error (.truncated 17) := by rfl
/-- 40_serializer.md's V-E11 operands: each byte of the value in its place, big-endian. -/
theorem test_encode_send_bytes : encode (.send 1 5 4 0 0x12345678)
    = [0x01, 0x01, 0x05, 0x04, 0x00, 0x12, 0x34, 0x56, 0x78, 0, 0, 0, 0, 0, 0, 0, 0, 0] := by decide

/-! ### The operations: two a piece -/

/-- V-E10 -/
theorem test_encode_negative : ((nextOf (exec (.encode 1 4 0 1 (-50000)) (idle []))).map (·.resp))
    = some (some (.frame ⟨0x01, 0x04, 0x00, 0x01, 0xFF, 0xFF, 0x3C, 0xB0, 0xF0⟩)) := by decide
/-- V-E7 -/
theorem test_encode_reduces_address : ((nextOf (exec (.encode 257 4 0 1 50000) (idleClosed []))).map (·.resp))
    = some (some (.frame (Frame.ofList e1))) := by decide
/-- V-S2 -/
theorem test_send_short : ((nextOf (exec (.send 1 4 0 1 50000) (stateWith [] (.short 4) [] []))).map fun t => (t.chan.tx, t.resp))
    = some ([0x01, 0x04, 0x00, 0x01], some (.send (.sent 4))) := by decide
/-- V-S5 with V-S7: the frame is appended, `rx` stays. -/
theorem test_send_appends :
    ((nextOf (exec (.send 1 4 0 1 50000) { idle [0x7E] with chan := ⟨[0x7E], [0xAA], true⟩ })).map fun t => (t.chan.tx, t.chan.rx))
    = some (0xAA :: e1, [0x7E]) := by decide
/-- V-D5 -/
theorem test_check_negative :
    ((nextOf (exec (.check [0x02, 0x01, 0x64, 0x04, 0xFF, 0xFF, 0xFF, 0xFE, 0x66]) (idle []))).map (·.resp))
    = some (some (.result (.ok ⟨2, 100, -2⟩))) := by decide
/-- V-D16: a swap of bytes 6 and 7 goes undetected. -/
theorem test_check_swapped :
    ((nextOf (exec (.check [0x01, 0x04, 0x00, 0x01, 0x00, 0x00, 0x50, 0xC3, 0x19]) (idle []))).map (·.resp))
    = some (some (.result (.ok ⟨1, 0, 20675⟩))) := by decide
/-- V-D9: a misaligned window whose sum happens to match. -/
theorem test_poll_misaligned : ((nextOf (exec .poll (idle (0x22 :: f1)))).map fun t => (t.chan.rx, t.resp))
    = some ([0x7E], some (.result (.ok ⟨34, 1, 67109059⟩))) := by decide
/-- V-D19: a bad frame is consumed all the same. -/
theorem test_poll_checksum_error :
    ((nextOf (exec .poll (idle [0x02, 0x01, 0x64, 0x04, 0x00, 0x00, 0xC3, 0x50, 0x00, 0x01, 0x02, 0x03]))).map fun t => (t.chan.rx, t.resp))
    = some ([0x01, 0x02, 0x03], some (.result .checksumError)) := by decide

/-! ### Refusals and the agents around the block -/

/-- V-S6 and V-R4: the closed channel; nothing but `refused` changes. -/
theorem test_closed_refuses : nextOf (exec (.send 1 4 0 1 50000) (idleClosed [])) = some { idleClosed [] with refused := true }
    ∧ nextOf (exec .poll (idleClosed f1)) = some { idleClosed f1 with refused := true } := by decide
/-- V-R1 by a step. -/
theorem test_op_4_refused : (nextOf (step (stateWith f1 .full [.request { pollRequest with op := 4 }] []))).map
    (fun t => (t.refused, t.hpc, t.chan.rx)) = some (true, 0, f1) := by decide
/-- V-D7: the missing byte arrives, the next POLL answers. -/
theorem test_arrival_completes_frame :
    ((nextOf (step (stateWith (f1.take 8) .full [.request pollRequest] [.arrive [0x7E] []]))).map fun t => (t.chan.rx, t.hpc))
    = some (f1, 0) := by decide
/-- A buffer of 9 bytes loses what the draw says. -/
theorem test_overflow : ((nextOf (step (idleBounded 9 (f1.take 7) [.arrive [1, 2, 3] [false, true, true]]))).map (·.chan.rx))
    = some (f1.take 7 ++ [2, 3]) := by decide
/-- P1, statement 4: `BR.NOTREADY` goes back while there is no reply. -/
theorem test_branch_not_ready :
    ((nextOf (step { stateWith [] .full [.request pollRequest, .br .notReady 0] [] with hpc := 1, resp := some (.result .notReady) })).map
      (·.hpc)) = some 0 := by decide
/-- 30_encoding.md R61: `WAIT`, and P2's label before it. -/
theorem test_assemble_wait : assemble [.label 7, .halt, .wait 8, .br .ckErr 7]
    = some [.halt, .request Instr.poll.toRequest, .br .notReady 1, .br .ckErr 0] := by decide
/-- Log entry 25: a label on the last line. -/
theorem test_assemble_label_at_end : assemble [.jmp 1, .label 1] = some [.jmp 1] := by decide
theorem test_assemble_undefined_label : assemble [.jmp 1] = none ∧ assemble [.label 1, .halt, .label 1, .jmp 1] = none := by decide
/-- spec/opcode_table.json's four words run as the first operation of a run, whatever is free at reset. -/
theorem test_fetch_words_run : ∀ w ∈ [0, 1, 2, 3], ∃ i t, decodeTableWord 8 w = some i
    ∧ step (State.reset.withFetchWord 8 w) = .next t ∧ exec i (State.reset.withFetchWord 8 w) = .next t := by
  intro w hw
  fin_cases hw
  · exact ⟨_, _, rfl, rfl, rfl⟩
  · exact ⟨_, _, rfl, rfl, rfl⟩
  · exact ⟨_, _, rfl, rfl, rfl⟩
  · exact ⟨_, _, rfl, rfl, rfl⟩

/-! ### Witnesses: the hypotheses of each statement, met together, each clause at a boundary of its range -/

theorem witness_ResetLeavesTheStartState :
    Launch.fits { launchOf [] with rxCapacity := some 9 } f1 = true ∧ (launchOf []).fits f1 = true := by decide
theorem witness_EncodeAnswersTheCommandFrame :
    (-2147483648 ≤ (-2147483648 : Int) ∧ (-2147483648 : Int) ≤ 2147483647)
    ∧ ((-2147483649 : Int) < -2147483648 ∨ 2147483647 < (-2147483649 : Int))
    ∧ ((2147483648 : Int) < -2147483648 ∨ 2147483647 < (2147483648 : Int)) := by decide
theorem witness_SendAppendsTheDrawnPrefix :
    (idle []).chan.isOpen = true ∧ writeDraw (idle []).launch (idle []).draws = .full
    ∧ writeDraw (launchOf []) ⟨[.short 8], [], 0⟩ = .short 8 ∧ writeDraw (launchOf []) ⟨[.fail 9], [], 0⟩ = .fail 9
    ∧ writeDraw { launchOf [] with writeAlwaysFull := true } ⟨[.fail 9], [], 0⟩ = .full
    ∧ (idleClosed []).chan.isOpen = false := by decide
theorem witness_WriteDrawsAreTakenInOrder : (launchOf []).writeAlwaysFull = false
    ∧ (⟨[.short 0, .full], [], 3⟩ : Draws).writes = .short 0 :: [.full] ∧ (⟨[], [], 3⟩ : Draws).writes = [] := by decide
theorem witness_SendWritesTheFrameEncodeReturns : inI32 2147483647 = true ∧ (idle []).chan.isOpen = true := by decide
theorem witness_EncodeIsInjectiveOnReducedOperands : inI32 (-2147483648) = true ∧ inI32 2147483647 = true := by decide
theorem witness_ByteFieldsAreReducedModulo256 : inI32 (-1) = true := by decide
theorem witness_ClosedChannelRefusesSendAndPoll : (idleClosed f1).chan.isOpen = false ∧ inI32 0 = true := by decide
theorem witness_RefusalReasonsInOrder : inI32 2147483648 = false ∧ inI32 2147483647 = true ∧ (idleClosed []).chan.isOpen = false
    ∧ (idle []).chan.isOpen = true ∧ (f1.take 8).length ≠ 9 ∧ f1.length = 9 := by decide
theorem witness_OneByteChangeIsDetected : decodeFrame (Frame.ofList e1) ≠ .checksumError
    ∧ (0x18 : Byte) ≠ (Frame.ofList e1).toList.getD 8 0 := by decide
theorem witness_CancellingChangesGoUndetected :
    ((Frame.ofList [0x04, 0x01, 0x00, 0x01, 0x00, 0x00, 0xC3, 0x50, 0x19]).toList.take 8).Perm ((Frame.ofList e1).toList.take 8)
    ∧ (0x19 : Byte) = (Frame.ofList e1).b8 ∧ (0 : Fin 8) ≠ 7 := by decide
theorem witness_CheckAnswersTheDecodedFrame : (f1.take 8).length ≠ 9 ∧ (0 :: f1).length ≠ 9 := by decide
theorem witness_PollConsumesTheOldestNineOrNothing : (idle f1).launch.readCanFail = false ∧ (idle f1).chan.isOpen = true
    ∧ (idle f1).chan.rx = 0x02 :: 0x01 :: 0x64 :: 0x04 :: 0x00 :: 0x00 :: 0xC3 :: 0x50 :: 0x7E :: []
    ∧ (idle (f1.take 8)).chan.rx.length < 9 ∧ (idleClosed f1).chan.isOpen = false := by decide
theorem witness_NotReadyBoundaryIsNineBytes : (idle f1).chan.isOpen = true ∧ (idle f1).launch.readCanFail = false
    ∧ (idle (f1.take 8)).chan.rx.length = 8 ∧ (idle f1).chan.rx.length = 9
    ∧ checksum (Frame.ofList (idle f1).chan.rx) = (Frame.ofList (idle f1).chan.rx).b8 := by decide
theorem witness_PollNeverWaits : (idle []).chan.isOpen = true ∧ (idle []).launch.readCanFail = false := by decide
theorem witness_FailedReadLeavesPollNoStep : (idleReads f1 true).chan.isOpen = true ∧ 9 ≤ (idleReads f1 true).chan.rx.length
    ∧ (idleReads f1 true).launch.readCanFail = true ∧ (idleReads f1 true).draws.nextReadFails = true
    ∧ (idleReads f1 false).draws.nextReadFails = false ∧ (idleReads f1 true).draws.reads = true :: []
    ∧ (idle f1).draws.reads = [] := by decide
theorem witness_PollAnswersAsCheckDoes : f1.length = 9 ∧ (idle (f1 ++ e1)).chan.isOpen = true
    ∧ (idle (f1 ++ e1)).chan.rx = f1 ++ e1 ∧ (idle (f1 ++ e1)).launch.readCanFail = false := by decide
theorem witness_NotReadyPollIsIdempotent : ∃ t, exec .poll (idle (f1.take 8)) = .next t ∧ t.resp = some (.result .notReady)
    ∧ (idle (f1.take 8)).chan.isOpen = true ∧ (idle (f1.take 8)).chan.rx.length < 9 :=
  ⟨_, rfl, by decide, by decide, by decide⟩
theorem witness_CommandFrameRoundTrip : 255 < 256 ∧ 0 < 256 ∧ inI32 (-2147483648) = true := by decide
theorem witness_ReplyFrameRoundTrip : inI32 2147483647 = true := by decide
theorem witness_ValueConversionsAreInverse : inI32 (-2147483648) = true ∧ inI32 2147483647 = true := by decide
theorem witness_OpCodesSelectTheOperations : (⟨0, 1, 4, 0, 1, 5, []⟩ : Request).op = 0 ∧ (⟨1, 1, 4, 0, 1, 5, []⟩ : Request).op = 1
    ∧ (⟨2, 0, 0, 0, 0, 0, f1⟩ : Request).op = 2 ∧ pollRequest.op = 3 ∧ 4 ≤ ({ pollRequest with op := 4 } : Request).op := by decide
theorem witness_UnreadFieldsAreIgnored :
    (⟨1, 1, 4, 0, 1, 5, f1⟩ : Request).op = (⟨1, 1, 4, 0, 1, 5, []⟩ : Request).op ∧ (⟨1, 1, 4, 0, 1, 5, f1⟩ : Request).op ≤ 1
    ∧ (⟨2, 7, 0, 0, 0, 0, f1⟩ : Request).frameIn = (⟨2, 0, 0, 0, 0, 9, f1⟩ : Request).frameIn ∧ 3 ≤ pollRequest.op := by decide
theorem witness_DecodeGivesBackTheEncodedOperation : Instr.wf (.send 255 255 255 255 (-2147483648)) = true
    ∧ Instr.wf (.encode 257 0 0 0 2147483647) = true ∧ Instr.wf (.check f1) = true ∧ Instr.wf .poll = true := by decide
theorem witness_DecodedOperationsAreWellFormed : decodeBytes (0x03 :: List.replicate 17 0 ++ [0xAA]) = .ok (.poll, [0xAA]) := by
  rfl
theorem witness_StepRunsTheDecodedRequest :
    nextTurn (stateWith [] .full [.request pollRequest] [.host]).agenda = .host
    ∧ (stateWith [] .full [.request pollRequest] [.host]).launch.program[0]? = some (.request pollRequest)
    ∧ pollRequest.decode = .ok .poll ∧ ({ pollRequest with op := 4 } : Request).decode = .error (.opOutOfRange 4) :=
  ⟨by decide, by decide, rfl, rfl⟩
theorem witness_PlacedWordIsTheNextOperation : decodeTableWord 8 3 = some .poll := by decide
theorem witness_HostStatementsMoveTheHostOnly :
    nextTurn (stateWith [] .full [.br .ok 0, .jmp 0, .halt] []).agenda = .host
    ∧ [Stmt.br .ok 0, .jmp 0, .halt][0]? = some (.br .ok 0) ∧ [Stmt.br .ok 0, .jmp 0, .halt][1]? = some (.jmp 0)
    ∧ [Stmt.br .ok 0, .jmp 0, .halt][2]? = some .halt ∧ [Stmt.br .ok 0, .jmp 0, .halt][3]? = none
    ∧ branchTaken (some (.result (.ok ⟨0, 0, 0⟩))) .ok = true ∧ branchTaken (some (.result .notReady)) .ok = false := by decide
theorem witness_ResponseTagsDecideBranches : (8 : Fin 10).val < 9 := by decide
theorem witness_WaitEndsAfterTheArrival :
    let s := stateWith (f1.take 8) .full [.request pollRequest, .br .notReady 0] [.host, .host, .arrive [0x7E] []]
    pollRequest.op = 3 ∧ s.launch.program[s.hpc]? = some (.request pollRequest)
    ∧ s.launch.program[s.hpc + 1]? = some (.br .notReady s.hpc) ∧ s.chan.isOpen = true ∧ s.launch.readCanFail = false
    ∧ s.agenda = List.replicate (2 * 1) .host ++ [.arrive [0x7E] []]
    ∧ s.chan.rx.length < 9 ∧ 9 ≤ s.chan.rx.length + 1 ∧ s.launch.fits (s.chan.rx ++ [0x7E]) = true := by decide
theorem witness_WaitGoesOnWithoutArrivals :
    let s := stateWith (f1.take 8) .full [.request pollRequest, .br .notReady 0] []
    pollRequest.op = 3 ∧ s.launch.program[s.hpc]? = some (.request pollRequest)
    ∧ s.launch.program[s.hpc + 1]? = some (.br .notReady s.hpc) ∧ s.chan.isOpen = true ∧ s.agenda = []
    ∧ s.chan.rx.length < 9 := by decide
theorem witness_ArrivalAppendsToTheBuffer :
    nextTurn (idleBounded 9 (f1.take 8) [.arrive [0x7E] []]).agenda = .arrive [0x7E] []
    ∧ (idleBounded 9 (f1.take 8) []).launch.fits (f1.take 8 ++ [0x7E]) = true
    ∧ (idleBounded 9 f1 []).launch.fits f1 = true := by decide
theorem witness_OverflowMayDeliverAnyFittingSubsequence :
    (idleBounded 9 [] []).launch.fits (f1.take 8 ++ [1, 2]) = false ∧ List.Sublist [2] [1, (2 : Byte)]
    ∧ (idleBounded 9 [] []).launch.fits (f1.take 8 ++ [2]) = true := by decide
theorem witness_TransportSetsTheOpenFlag : nextTurn [.openChannel] = .openChannel ∧ nextTurn [.closeChannel] = .closeChannel := by
  decide
theorem witness_SecondAgentIsRefused : nextTurn (stateWith [] .full [] [.secondAgent]).agenda = .secondAgent := by decide
theorem witness_ResetKeepsTheTransmitLog : nextTurn (idleBounded 9 [] [.reset f1]).agenda = .reset f1
    ∧ (idleBounded 9 [] [.reset f1]).launch.fits f1 = true := by decide
theorem witness_EncodeAndCheckLeaveTheChannel : (∃ t, exec (.encode 1 4 0 1 50000) (idle []) = .next t)
    ∧ ∃ t, exec (.check f1) (idle []) = .next t := ⟨⟨_, rfl⟩, ⟨_, rfl⟩⟩
theorem witness_SendTouchesOnlyTheTransmitLog : (∃ t, exec (.send 1 4 0 1 50000) (idle []) = .next t)
    ∧ (∃ t, exec (.send 1 4 0 1 50000) (idleClosed []) = .next t) ∧ inI32 50000 = true ∧ (idle []).chan.isOpen = true
    ∧ ¬(inI32 50000 = true ∧ (idleClosed []).chan.isOpen = true) := ⟨⟨_, rfl⟩, ⟨_, rfl⟩, by decide, by decide, by decide⟩
theorem witness_PollTouchesOnlyTheReceiveBuffer : (∃ t, exec .poll (idle f1) = .next t)
    ∧ (∃ t, exec .poll (idle (f1.take 8)) = .next t) ∧ (∃ t, exec .poll (idleClosed f1) = .next t)
    ∧ 9 ≤ (idle f1).chan.rx.length := ⟨⟨_, rfl⟩, ⟨_, rfl⟩, ⟨_, rfl⟩, by decide⟩
theorem witness_EveryOperationAnswersInItsOwnType : ∃ t, exec .poll (idle f1) = .next t ∧ t ≠ { idle f1 with refused := true } :=
  ⟨_, rfl, by decide⟩
theorem witness_RefusalIsStickyAndChangesNothingElse :
    (∃ t, step (stateWith [] .full [] [.secondAgent]) = .next t ∧ t.refused = true)
    ∧ (stateWith [] .full [] [.secondAgent]).refused = false
    ∧ ∃ t, step { idle [] with refused := true } = .next t := ⟨⟨_, rfl, rfl⟩, rfl, ⟨_, rfl⟩⟩
theorem witness_TransmitLogOnlyGrows :
    (∃ t, step (stateWith [] .full [.request ⟨1, 1, 4, 0, 1, 50000, []⟩] []) = .next t
      ∧ t.chan.tx ≠ (stateWith [] .full [.request ⟨1, 1, 4, 0, 1, 50000, []⟩] []).chan.tx)
    ∧ ∃ F, flow 1 (stateWith [] .full [.request ⟨1, 1, 4, 0, 1, 50000, []⟩] []) = some F := ⟨⟨_, rfl, by decide⟩, ⟨_, rfl⟩⟩
theorem witness_OnlyPollRemovesReceivedBytes :
    (∃ t, step (stateWith f1 .full [.request pollRequest] []) = .next t ∧ t.chan.rx = [])
    ∧ ∀ rx0, nextTurn (stateWith f1 .full [.request pollRequest] []).agenda ≠ .reset rx0 :=
  ⟨⟨_, rfl, rfl⟩, fun _ h => by cases h⟩
theorem witness_ConsumedWindowsAreAPrefixOfTheBytesReceived :
    (∃ F, flow 2 (stateWith (f1.take 8) .full [.request pollRequest] [.arrive [0x7E, 0xAA] [], .host]) = some F
      ∧ F.windows = [f1] ∧ F.last.chan.rx = [0xAA])
    ∧ noReset [Turn.arrive [0x7E, 0xAA] [], .host] := ⟨⟨_, rfl, by decide, by decide⟩, fun _ h => by simp at h⟩
theorem witness_OperationsReadNoEarlierResponse :
    let s' : State := { idle f1 with hpc := 7, refused := true, resp := some (.result .notReady) }
    (∃ t, exec .poll (idle f1) = .next t) ∧ s'.chan = (idle f1).chan ∧ s'.draws = (idle f1).draws
    ∧ s'.launch.readCanFail = (idle f1).launch.readCanFail ∧ s'.launch.writeAlwaysFull = (idle f1).launch.writeAlwaysFull :=
  ⟨⟨_, rfl⟩, rfl, rfl, rfl, rfl⟩
theorem witness_ParametersNeverChange : ∃ t, step (stateWith f1 .full [.request pollRequest] []) = .next t := ⟨_, rfl⟩
theorem witness_StepKeepsTheInvariant :
    let s : State := { stateWith [] .full [.request ⟨1, 1, 4, 0, 1, 50000, []⟩] [] with
      launch := { launchOf [.request ⟨1, 1, 4, 0, 1, 50000, []⟩] with rxCapacity := some 9, writeAlwaysFull := true } }
    Inv s ∧ ∃ t, step s = .next t ∧ t.chan.tx = e1 :=
  ⟨⟨rfl, (fun _ h => nomatch h), fun _ => ⟨[], rfl, by simp⟩, (fun _ _ h => nomatch h)⟩, ⟨_, rfl, by decide⟩⟩

end Sys2Proof.Tests
end

section
/-! PROOFS. The family 00_scope: `sum8` as a number, and as the fold of the 8-bit addition (00_scope.md R10). -/

namespace Sys2Proof.Machine

theorem sum8_toNat (s : List Byte) : (sum8 s).toNat = (s.map BitVec.toNat).sum % 256 :=
  BitVec.toNat_ofNat _ 8

/-- Reducing after each addition, from any accumulator: the accumulator has to vary for the induction to go through. -/
theorem foldl_add_eq_add_sum8 (s : List Byte) (acc : Byte) :
    s.foldl (fun acc b => acc + b) acc = acc + sum8 s := by
  induction s generalizing acc with
  | nil => simp
  | cons b s ih =>
    calc (b :: s).foldl (fun acc b => acc + b) acc
      _ = (acc + b) + sum8 s := ih (acc + b)
      _ = acc + sum8 (b :: s) := by rw [sum8_cons, BitVec.add_assoc]

/-- Settles O12: the reduction at the end is the definition of `sum8`; the reduction after each addition is the
fold from 0, by induction on the bytes. -/
theorem sumReducesAnywhere : Obligations.SumReducesAnywhere := by
  intro s
  have hfold : s.foldl (fun acc b => acc + b) 0 = sum8 s := by simp [foldl_add_eq_add_sum8]
  exact ⟨sum8_toNat s, hfold.symm⟩

end Sys2Proof.Machine
end

section
/-! PROOFS. The family 10_state: the operations, the buffers and the parameters over one step and over a run, the machine's
invariant, and the state at the start. -/

namespace Sys2Proof.Machine

/-! ### A step by its turn -/

theorem step_of_nextTurn {s : State} {turn : Turn} (hturn : nextTurn s.agenda = turn) :
    step s = runTurn turn { s with agenda := s.agenda.tail } := by
  rw [step, hturn]

/-- On the host's turn a request is issued to the block. -/
theorem step_of_request {s : State} {q : Request} (hturn : nextTurn s.agenda = .host)
    (hstmt : s.launch.program[s.hpc]? = some (.request q)) :
    step s = issue q { s with agenda := s.agenda.tail } := by
  simp [step_of_nextTurn hturn, runTurn, hostTurn, hstmt, runStmt]

theorem issue_of_decode_ok {q : Request} {i : Instr} (hdec : q.decode = .ok i) (s : State) : issue q s = exec i s := by
  simp [issue, hdec]

theorem issue_of_decode_error {q : Request} {e : DecodeError} (hdec : q.decode = .error e) (s : State) :
    issue q s = .next s.refuse := by
  simp [issue, hdec]

/-- What a step's next state can be, by what it touches: `step_cases` with the host's turn taken apart by `hostTurn_cases`. -/
theorem step_effects {s t : State} (h : step s = .next t) :
    (∃ i, s.nextInstr = some i ∧ exec i { s with agenda := s.agenda.tail } = .next t)
    ∨ t = State.refuse { s with agenda := s.agenda.tail }
    ∨ (∃ hpc, t = { s with hpc := hpc, agenda := s.agenda.tail })
    ∨ (∃ bytes keep, t = State.arrive { s with agenda := s.agenda.tail } bytes keep)
    ∨ (∃ isOpen, t = State.setOpen { s with agenda := s.agenda.tail } isOpen)
    ∨ (∃ rx0, nextTurn s.agenda = .reset rx0 ∧ t = State.resetTurn { s with agenda := s.agenda.tail } rx0) := by
  rcases step_cases h with ⟨hturn, hhost⟩ | ⟨bytes, keep, -, ht⟩ | ⟨isOpen, -, ht⟩ | ⟨-, ht⟩ | hreset
  · rcases hostTurn_cases hhost with ⟨q, i, hstmt, hdec, hexec⟩ | ⟨_, _, -, -, ht⟩ | ⟨hpc, ht, -⟩
    · exact .inl ⟨i, nextInstr_eq_some hturn hstmt hdec, hexec⟩
    · exact .inr (.inl ht)
    · exact .inr (.inr (.inl ⟨hpc, ht⟩))
  · exact .inr (.inr (.inr (.inl ⟨bytes, keep, ht⟩)))
  · exact .inr (.inr (.inr (.inr (.inl ⟨isOpen, ht⟩))))
  · exact .inr (.inl ht)
  · exact .inr (.inr (.inr (.inr (.inr hreset))))

/-! ### An operation as a verdict

`exec` is one shape for all four operations: the stop of 60_exceptions.md R91, or the settled verdict. What an operation reads
is then what its verdict and its stop read. -/

/-- The verdict `exec` settles for an operation; `exec_eq_settle` ties it to `exec`. -/
def verdictOf (l : Launch) (c : Channel) (d : Draws) : Instr → Verdict
  | .encode address command type motor value => encodeVerdict address command type motor value c d
  | .send address command type motor value => sendVerdict address command type motor value l c d
  | .check frameIn => checkVerdict frameIn c d
  | .poll => pollVerdict l c d

/-- Whether an operation has no step: only a POLL whose read fails (60_exceptions.md R91). -/
def stopsOn (l : Launch) (c : Channel) (d : Draws) : Instr → Bool
  | .poll => readStuck l c d
  | _ => false

theorem exec_eq_settle (i : Instr) (s : State) :
    exec i s = if stopsOn s.launch s.chan s.draws i then .fault .readFailed
      else .next (s.settle (verdictOf s.launch s.chan s.draws i)) := by
  cases i <;> rfl

/-- Of the parameters, a verdict reads the two switches alone. -/
theorem verdictOf_congr {l l' : Launch} (hread : l'.readCanFail = l.readCanFail)
    (hwrite : l'.writeAlwaysFull = l.writeAlwaysFull) (c : Channel) (d : Draws) (i : Instr) :
    verdictOf l' c d i = verdictOf l c d i := by
  cases i with
  | encode | check => rfl
  | send => simp [verdictOf, sendVerdict, writeDraw, hwrite]
  | poll => simp [verdictOf, pollVerdict, drawsAfterRead, hread]

theorem stopsOn_congr {l l' : Launch} (hread : l'.readCanFail = l.readCanFail) (c : Channel) (d : Draws) (i : Instr) :
    stopsOn l' c d i = stopsOn l c d i := by
  cases i with
  | encode | send | check => rfl
  | poll => simp [stopsOn, readStuck, hread]

/-- Two states with the same channel, draws and switches have the same verdict settled in them. -/
theorem exec_settles_same_verdict {i : Instr} {s t s' : State} (h : exec i s = .next t) (hchan : s'.chan = s.chan)
    (hdraws : s'.draws = s.draws) (hread : s'.launch.readCanFail = s.launch.readCanFail)
    (hwrite : s'.launch.writeAlwaysFull = s.launch.writeAlwaysFull) :
    ∃ v, t = s.settle v ∧ exec i s' = .next (s'.settle v) := by
  rw [exec_eq_settle] at h
  split at h
  · cases h
  · rename_i hgoes
    refine ⟨verdictOf s.launch s.chan s.draws i, by simpa using h.symm, ?_⟩
    rw [exec_eq_settle, hchan, hdraws, verdictOf_congr hread hwrite, stopsOn_congr hread, if_neg hgoes]

/-! ### The invariant -/

/-- The invariant speaks of the parameters, the two byte streams and the last response alone. -/
theorem Inv.congr {s t : State} (hinv : Inv s) (hlaunch : t.launch = s.launch) (hrx : t.chan.rx = s.chan.rx)
    (htx : t.chan.tx = s.chan.tx) (hresp : t.resp = s.resp) : Inv t where
  buffer_fits := by simpa only [hlaunch, hrx] using hinv.buffer_fits
  value_in_range := by simpa only [hresp] using hinv.value_in_range
  tx_whole := by simpa only [hlaunch, htx] using hinv.tx_whole
  sent_all := by simpa only [hlaunch, hresp] using hinv.sent_all

theorem wholeFrames_append_frame {bs : List Byte} {f : Frame} (hbs : wholeFrames bs) (hf : validFrame f) :
    wholeFrames (bs ++ f.toList) := by
  obtain ⟨fs, rfl, hfs⟩ := hbs
  refine ⟨fs ++ [f], by simp, fun g hg => ?_⟩
  rcases List.mem_append.mp hg with hg | hg
  · exact hfs g hg
  · rwa [List.mem_singleton.mp hg]

/-- A frame answered with the channel as it was: ENCODE. -/
theorem Inv.respond_frame {s : State} (hinv : Inv s) (f : Frame) : Inv (s.respond s.chan s.draws (.frame f)) where
  buffer_fits := hinv.buffer_fits
  value_in_range := by simp
  tx_whole := hinv.tx_whole
  sent_all := by simp

/-- A valid frame written: SEND. Under `WRITE_ALWAYS_FULL` the draw is `Full`, so the whole frame goes out. -/
theorem Inv.respond_send {s : State} (hinv : Inv s) {f : Frame} (hf : validFrame f) (d : Draws) :
    Inv (s.respond (s.chan.write f.toList (writeDraw s.launch s.draws)) d
      (.send (writeResult (writeDraw s.launch s.draws)))) where
  buffer_fits := hinv.buffer_fits
  value_in_range := by simp
  tx_whole hfull := by
    have hwhole := wholeFrames_append_frame (hinv.tx_whole hfull) hf
    have hdraw : writeDraw s.launch s.draws = .full := if_pos hfull
    have htake : f.toList.take 9 = f.toList := rfl
    simpa [hdraw, Channel.write, acceptedBytes, htake] using hwhole
  sent_all hfull r hr := by
    have hdraw : writeDraw s.launch s.draws = .full := if_pos hfull
    simpa [hdraw, writeResult, eq_comm] using hr

/-- A result answered with some of `rx` taken away or none: CHECK and POLL. -/
theorem Inv.respond_result {s : State} (hinv : Inv s) {rx : List Byte} (hrx : rx.length ≤ s.chan.rx.length)
    {r : Result} (hr : ∀ reply, r = .ok reply → inI32 reply.value = true) (d : Draws) :
    Inv (s.respond { s.chan with rx := rx } d (.result r)) where
  buffer_fits := Launch.fits_of_length_le hinv.buffer_fits hrx
  value_in_range := by simpa using hr
  tx_whole := hinv.tx_whole
  sent_all := by simp

theorem Inv.exec {i : Instr} {s t : State} (hinv : Inv s) (h : exec i s = .next t) : Inv t := by
  rcases exec_cases h with rfl | ⟨a, c, ty, m, v, -, -, rfl⟩ | ⟨a, c, ty, m, v, -, -, -, rfl⟩ | ⟨bs, -, -, rfl⟩
    | ⟨-, -, -, rfl⟩ | ⟨-, -, -, rfl⟩
  · exact hinv.congr rfl rfl rfl rfl
  · exact hinv.respond_frame _
  · exact hinv.respond_send (checksum_commandFrame a c ty m v) _
  · exact hinv.respond_result le_rfl (fun _ => decodeFrame_ok_value) _
  · exact hinv.respond_result le_rfl (by simp) _
  · exact hinv.respond_result (by simp) (fun _ => decodeFrame_ok_value) _

theorem Inv.arrive {s : State} (hinv : Inv s) (bytes : List Byte) (keep : List Bool) : Inv (s.arrive bytes keep) where
  buffer_fits := Launch.fits_deliver keep hinv.buffer_fits
  value_in_range := hinv.value_in_range
  tx_whole := hinv.tx_whole
  sent_all := hinv.sent_all

theorem Inv.resetTurn {s : State} (hinv : Inv s) (rx0 : List Byte) : Inv (s.resetTurn rx0) where
  buffer_fits := by simp
  value_in_range := by simp
  tx_whole := hinv.tx_whole
  sent_all := by simp

theorem inv_start (l : Launch) (rx0 : List Byte) (d : Draws) (g : List Turn) : Inv (State.start l rx0 d g) where
  buffer_fits := by simp
  value_in_range := by simp
  tx_whole _ := ⟨[], by simp⟩
  sent_all := by simp

/-- Settles O54: an operation keeps the invariant by `Inv.exec`, an arrival and a reset by the buffer's bounds, and every other
step touches nothing the invariant speaks of. -/
theorem stepKeepsTheInvariant : Obligations.StepKeepsTheInvariant := by
  intro s t hinv h
  have hinv' : Inv { s with agenda := s.agenda.tail } := hinv.congr rfl rfl rfl rfl
  rcases step_effects h with ⟨i, -, hexec⟩ | rfl | ⟨hpc, rfl⟩ | ⟨bytes, keep, rfl⟩ | ⟨isOpen, rfl⟩ | ⟨rx0, -, rfl⟩
  · exact hinv'.exec hexec
  · exact hinv.congr rfl rfl rfl rfl
  · exact hinv.congr rfl rfl rfl rfl
  · exact hinv'.arrive bytes keep
  · exact hinv.congr rfl rfl rfl rfl
  · exact hinv'.resetTurn rx0

/-- Settles O55: the bytes at the start are cut to the capacity, `tx` is empty and there is no response. -/
theorem theInvariantHoldsAtTheStart : Obligations.TheInvariantHoldsAtTheStart :=
  ⟨inv_start, inv_start _ _ _ _⟩

/-! ### The request a step runs -/

/-- Settles O30: the step issues the request, which decodes to its operation or is refused. -/
theorem stepRunsTheDecodedRequest : Obligations.StepRunsTheDecodedRequest := by
  intro s q hturn hstmt
  rw [step_of_request hturn hstmt]
  exact ⟨fun _ hdec => issue_of_decode_ok hdec _, fun _ hdec => issue_of_decode_error hdec _⟩

theorem decode_ofLayout_of_decodeBytes {bs rest : List Byte} {i : Instr} (h : decodeBytes bs = .ok (i, rest)) :
    (Request.ofLayout bs).decode = .ok i := by
  unfold decodeBytes at h
  split at h
  · cases h
  · split at h
    · cases h
      assumption
    · cases h

theorem decode_ofLayout_of_decodeTableWord {nbits w : Nat} {i : Instr} (h : decodeTableWord nbits w = some i) :
    (Request.ofLayout (tableBytes nbits w)).decode = .ok i := by
  unfold decodeTableWord at h
  split at h
  · cases h
    exact decode_ofLayout_of_decodeBytes ‹_›
  · cases h

/-- Settles O31: the placed request stands at `hpc` with the host's turn next, so the step issues it. -/
theorem placedWordIsTheNextOperation : Obligations.PlacedWordIsTheNextOperation := by
  intro s nbits w i hword
  have hdec := decode_ofLayout_of_decodeTableWord hword
  have hturn : nextTurn (s.withFetchWord nbits w).agenda = .host := nextTurn_hostFirst s.agenda
  have hstmt : (s.withFetchWord nbits w).launch.program[(s.withFetchWord nbits w).hpc]?
      = some (.request (Request.ofLayout (tableBytes nbits w))) := placeStmt_getElem? _ _ _
  have hstep := (step_of_request hturn hstmt).trans (issue_of_decode_ok hdec _)
  exact ⟨nextInstr_eq_some hturn hstmt hdec, hstep, rfl, rfl, rfl, rfl, rfl⟩

/-! ### Arrivals and the transport layer -/

/-- Settles O37: what is delivered is `Launch.deliver`. -/
theorem arrivalAppendsToTheBuffer : Obligations.ArrivalAppendsToTheBuffer := by
  intro s bytes keep hturn
  exact ⟨s.launch.deliver s.chan.rx bytes keep, step_of_nextTurn hturn, Launch.deliver_sublist _ _ _ _,
    Launch.deliver_of_fits keep, Launch.fits_deliver keep⟩

/-- Every subsequence is picked by some marking. -/
theorem exists_pick_of_sublist {d bs : List Byte} (h : d.Sublist bs) : ∃ keep, pick bs keep = d := by
  induction h with
  | slnil => exact ⟨[], rfl⟩
  | cons b _ ih =>
    obtain ⟨keep, hkeep⟩ := ih
    exact ⟨false :: keep, hkeep⟩
  | cons_cons b _ ih =>
    obtain ⟨keep, hkeep⟩ := ih
    exact ⟨true :: keep, congrArg (b :: ·) hkeep⟩

/-- At overflow the delivery is the picked subsequence, where it fits. -/
theorem Launch.deliver_of_pick_fits {l : Launch} {rx bs : List Byte} {keep : List Bool} (hover : l.fits (rx ++ bs) = false)
    (hfits : l.fits (rx ++ pick bs keep) = true) : l.deliver rx bs keep = pick bs keep := by
  cases hcap : l.rxCapacity with
  | none => simp [Launch.fits, hcap] at hover
  | some capacity =>
    have hroom : (pick bs keep).length ≤ capacity - rx.length := by
      simp [Launch.fits, hcap] at hfits
      omega
    simp [Launch.deliver, hover, hcap, List.take_of_length_le hroom]

/-- Settles O38: the draw that marks the subsequence delivers it. -/
theorem overflowMayDeliverAnyFittingSubsequence : Obligations.OverflowMayDeliverAnyFittingSubsequence := by
  intro l rx bytes d hover hsub hfits
  obtain ⟨keep, rfl⟩ := exists_pick_of_sublist hsub
  exact ⟨keep, Launch.deliver_of_pick_fits hover hfits⟩

/-- Settles O39: each of the two turns is `State.setOpen`. -/
theorem transportSetsTheOpenFlag : Obligations.TransportSetsTheOpenFlag :=
  fun _ => ⟨fun hturn => step_of_nextTurn hturn, fun hturn => step_of_nextTurn hturn⟩

/-! ### Answers -/

/-- Settles O45: the operations that answer, from `exec_cases`; DECODE_FRAME never says `NotReady`. -/
theorem everyOperationAnswersInItsOwnType : Obligations.EveryOperationAnswersInItsOwnType := by
  intro i s t h
  rcases exec_cases h with ht | ⟨_, _, _, _, _, rfl, -, rfl⟩ | ⟨_, _, _, _, _, rfl, -, -, rfl⟩ | ⟨bs, rfl, -, rfl⟩
    | ⟨rfl, -, -, rfl⟩ | ⟨rfl, -, -, rfl⟩
  · exact .inl ht
  · exact .inr ⟨_, rfl⟩
  · exact .inr ⟨_, rfl⟩
  · exact .inr ⟨_, decodeFrame_ne_notReady (Frame.ofList bs), rfl⟩
  · exact .inr ⟨_, rfl⟩
  · exact .inr ⟨_, rfl⟩

/-- Settles O52: both states settle the same verdict. -/
theorem operationsReadNoEarlierResponse : Obligations.OperationsReadNoEarlierResponse := by
  intro i s t s' h hchan hdraws hread hwrite
  obtain ⟨v, rfl, h'⟩ := exec_settles_same_verdict h hchan hdraws hread hwrite
  cases v with
  | respond c d r => exact ⟨_, h', rfl, rfl, .inr ⟨rfl, rfl, rfl⟩⟩
  | refuse reason => exact ⟨_, h', hchan, hdraws, .inl ⟨rfl, rfl⟩⟩

/-- A response with a tag branches on that tag alone. -/
theorem branchTaken_iff_of_tag {r : Response} {tag' : Tag} (hr : r.tag = some tag') (tag : Tag) :
    branchTaken (some r) tag = true ↔ tag = tag' := by
  simpa [branchTaken, hr] using eq_comm

theorem tag_send_of_lt_nine {n : Fin 10} (hn : n.val < 9) : (Response.send (.sent n)).tag = some .short :=
  congrArg some (if_neg hn.ne)

/-- Settles O33: each response's tag, by `branchTaken_iff_of_tag`; no response and ENCODE's frame have none. -/
theorem responseTagsDecideBranches : Obligations.ResponseTagsDecideBranches :=
  ⟨fun _ => branchTaken_iff_of_tag rfl, branchTaken_iff_of_tag rfl, branchTaken_iff_of_tag rfl,
    branchTaken_iff_of_tag rfl, fun _ tag hn => branchTaken_iff_of_tag (tag_send_of_lt_nine hn) tag,
    branchTaken_iff_of_tag rfl, fun _ _ => rfl, fun _ => rfl⟩

/-! ### The two byte streams over a step and over a run -/

/-- What an operation does to `tx`: nothing, or, a SEND on the open channel, bytes at its end. -/
theorem exec_tx {i : Instr} {s t : State} (h : exec i s = .next t) :
    t.chan.tx = s.chan.tx
    ∨ (s.chan.isOpen = true ∧ (∃ a c ty m v, i = .send a c ty m v) ∧ s.chan.tx <+: t.chan.tx) := by
  rcases exec_cases h with rfl | ⟨_, _, _, _, _, -, -, rfl⟩ | ⟨a, c, ty, m, v, hi, -, hopen, rfl⟩ | ⟨_, -, -, rfl⟩
    | ⟨-, -, -, rfl⟩ | ⟨-, -, -, rfl⟩
  case inr.inr.inl => exact .inr ⟨hopen, ⟨a, c, ty, m, v, hi⟩, List.prefix_append _ _⟩
  all_goals exact .inl rfl

/-- What a step does to `tx`. -/
theorem step_tx {s t : State} (h : step s = .next t) :
    t.chan.tx = s.chan.tx
    ∨ (s.chan.isOpen = true ∧ (∃ a c ty m v, s.nextInstr = some (.send a c ty m v)) ∧ s.chan.tx <+: t.chan.tx) := by
  rcases step_effects h with ⟨i, hi, hexec⟩ | rfl | ⟨_, rfl⟩ | ⟨_, _, rfl⟩ | ⟨_, rfl⟩ | ⟨_, -, rfl⟩
  case inl =>
    rcases exec_tx hexec with hsame | ⟨hopen, ⟨a, c, ty, m, v, rfl⟩, hgrow⟩
    · exact .inl hsame
    · exact .inr ⟨hopen, ⟨a, c, ty, m, v, hi⟩, hgrow⟩
  all_goals exact .inl rfl

theorem step_tx_prefix {s t : State} (h : step s = .next t) : s.chan.tx <+: t.chan.tx := by
  rcases step_tx h with hsame | ⟨-, -, hgrow⟩
  · exact hsame ▸ List.prefix_rfl
  · exact hgrow

/-- A run of `k + 1` steps is a step and a run of `k`, and both end in the same state. -/
theorem flow_succ_last {k : Nat} {s : State} {F : Flow} (h : flow (k + 1) s = some F) :
    ∃ t G, step s = .next t ∧ flow k t = some G ∧ F.last = G.last := by
  simp only [flow] at h
  split at h
  · rename_i t hstep
    obtain ⟨G, hG, rfl⟩ := Option.map_eq_some_iff.mp h
    exact ⟨t, G, hstep, hG, rfl⟩
  · cases h

/-- Over any run `tx` only grows, by induction on its length. -/
theorem flow_tx_prefix {k : Nat} {s : State} {F : Flow} (h : flow k s = some F) : s.chan.tx <+: F.last.chan.tx := by
  induction k generalizing s F with
  | zero =>
    cases h
    exact List.prefix_rfl
  | succ k ih =>
    obtain ⟨t, G, hstep, hflow, hlast⟩ := flow_succ_last h
    rw [hlast]
    exact (step_tx_prefix hstep).trans (ih hflow)

/-- Settles O48: by `step_tx` only a SEND on the open channel changes `tx`; over a run by `flow_tx_prefix`. -/
theorem transmitLogOnlyGrows : Obligations.TransmitLogOnlyGrows := by
  refine ⟨fun s t h hne => ?_, fun k s F => flow_tx_prefix⟩
  rcases step_tx h with hsame | ⟨hopen, hsend, -⟩
  · exact absurd hsame hne
  · exact ⟨hopen, hsend⟩

/-- What an operation does to `rx`: nothing, or, a POLL on the open channel with 9 bytes there, its first 9 taken. -/
theorem exec_rx {i : Instr} {s t : State} (h : exec i s = .next t) :
    t.chan.rx = s.chan.rx
    ∨ (i = .poll ∧ s.chan.isOpen = true ∧ 9 ≤ s.chan.rx.length ∧ t.chan.rx = s.chan.rx.drop 9) := by
  rcases exec_cases h with rfl | ⟨_, _, _, _, _, -, -, rfl⟩ | ⟨_, _, _, _, _, -, -, -, rfl⟩ | ⟨_, -, -, rfl⟩
    | ⟨-, -, -, rfl⟩ | ⟨hi, hopen, hlen, rfl⟩
  case inr.inr.inr.inr.inr => exact .inr ⟨hi, hopen, hlen, rfl⟩
  all_goals exact .inl rfl

/-- Settles O49: an operation by `exec_rx`; an arrival appends, a reset is set aside, every other step leaves `rx`. -/
theorem onlyPollRemovesReceivedBytes : Obligations.OnlyPollRemovesReceivedBytes := by
  intro s t h hnoReset
  rcases step_effects h with ⟨i, hi, hexec⟩ | rfl | ⟨_, rfl⟩ | ⟨_, _, rfl⟩ | ⟨_, rfl⟩ | ⟨rx0, hturn, -⟩
  · rcases exec_rx hexec with hsame | ⟨rfl, hopen, hlen, hdrop⟩
    · exact .inl (hsame ▸ List.prefix_rfl)
    · exact .inr ⟨hi, hopen, hlen, hdrop⟩
  · exact .inl List.prefix_rfl
  · exact .inl List.prefix_rfl
  · exact .inl (List.prefix_append _ _)
  · exact .inl List.prefix_rfl
  · exact absurd hturn (hnoReset rx0)

/-! ### The parameters -/

/-- Settles O53: no operation changes the parameters, and no other turn writes them. -/
theorem parametersNeverChange : Obligations.ParametersNeverChange := by
  intro s t h
  rcases step_effects h with ⟨_, -, hexec⟩ | rfl | ⟨_, rfl⟩ | ⟨_, _, rfl⟩ | ⟨_, rfl⟩ | ⟨_, -, rfl⟩
  case inl => exact (exec_launch_agenda hexec).1
  all_goals rfl

/-- The state with another line configuration (10_state.md R16). -/
def State.withLine (s : State) (line : LineConfig) : State := { s with launch := { s.launch with line := line } }

/-- The outcome with another line configuration in its next state, if it has one. -/
def outcomeWithLine (line : LineConfig) : Host.Outcome State Fault Refusal → Host.Outcome State Fault Refusal
  | .next t => .next (t.withLine line)
  | .fault r => .fault r
  | .refused r => .refused r

theorem settle_withLine (s : State) (line : LineConfig) (v : Verdict) :
    (s.withLine line).settle v = (s.settle v).withLine line := by
  cases v <;> rfl

theorem exec_withLine (i : Instr) (s : State) (line : LineConfig) :
    exec i (s.withLine line) = outcomeWithLine line (exec i s) := by
  have hstops : stopsOn (s.withLine line).launch (s.withLine line).chan (s.withLine line).draws i
      = stopsOn s.launch s.chan s.draws i := stopsOn_congr rfl _ _ _
  have hverdict : verdictOf (s.withLine line).launch (s.withLine line).chan (s.withLine line).draws i
      = verdictOf s.launch s.chan s.draws i := verdictOf_congr rfl rfl _ _ _
  rw [exec_eq_settle, exec_eq_settle, hstops, hverdict, settle_withLine]
  split <;> rfl

theorem issue_withLine (q : Request) (s : State) (line : LineConfig) :
    issue q (s.withLine line) = outcomeWithLine line (issue q s) := by
  cases hdec : q.decode with
  | ok i => simpa only [issue_of_decode_ok hdec] using exec_withLine i s line
  | error e => simp only [issue_of_decode_error hdec]; rfl

theorem hostTurn_withLine (s : State) (line : LineConfig) :
    hostTurn (s.withLine line) = outcomeWithLine line (hostTurn s) := by
  have hprogram : (s.withLine line).launch.program[(s.withLine line).hpc]? = s.launch.program[s.hpc]? := rfl
  unfold hostTurn
  rw [hprogram]
  cases s.launch.program[s.hpc]? with
  | none => rfl
  | some stmt =>
    cases stmt with
    | request q => exact issue_withLine q s line
    | br | jmp | halt => rfl

/-- Settles O51: every turn commutes with the replacement of the line configuration. -/
theorem lineConfigurationIsNeverRead : Obligations.LineConfigurationIsNeverRead := by
  intro s line
  have hstep : step (s.withLine line) = outcomeWithLine line (step s) := by
    have hturn : nextTurn (s.withLine line).agenda = nextTurn s.agenda := rfl
    rw [step, step, hturn]
    cases nextTurn s.agenda with
    | host => exact hostTurn_withLine { s with agenda := s.agenda.tail } line
    | arrive | openChannel | closeChannel | secondAgent | reset => rfl
  exact hstep

/-! ### The start state and the closed channel -/

/-- Settles O1: every field is `State.start`'s own, and an `RX0` that fits is not cut. -/
theorem resetLeavesTheStartState : Obligations.ResetLeavesTheStartState := by
  refine ⟨fun l rx0 d g => ⟨rfl, rfl, rfl, rfl, rfl, fun hfits => ?_⟩, Launch.reset, ⟨[], [], 0⟩, [], rfl⟩
  rw [State.start_rx, Launch.cut_of_fits hfits]

/-- The frame the machine builds is the command frame written out by arithmetic (30_encoding.md R54). -/
theorem commandFrame_toList (a c t m : Nat) (v : Int) : (commandFrame a c t m v).toList = commandBytes a c t m v := by
  simp [commandFrame, commandBytes, Frame.toList, checksum_eq_add, toU8, byteAt_eq_ofNat, u32Of_toNat, BitVec.ofNat_add,
    BitVec.add_assoc]

theorem checksum_toNat (f : Frame) : (checksum f).toNat =
    (f.b0.toNat + f.b1.toNat + f.b2.toNat + f.b3.toNat + f.b4.toNat + f.b5.toNat + f.b6.toNat + f.b7.toNat) % 256 := by
  simp [checksum, sum8_toNat, Frame.toList, Nat.add_assoc]

theorem sext32_joinBytes (b4 b5 b6 b7 : Byte) : sext32 (joinBytes b4 b5 b6 b7) = valueOf b4 b5 b6 b7 := by
  simp only [sext32, valueOf, joinBytes_toNat]

/-- DECODE_FRAME of nine bytes is what they decode to by arithmetic (41_deserializer.md R76). -/
theorem decodeFrame_nine (b0 b1 b2 b3 b4 b5 b6 b7 b8 : Byte) :
    decodeFrame ⟨b0, b1, b2, b3, b4, b5, b6, b7, b8⟩ = decodedResult b0 b1 b2 b3 b4 b5 b6 b7 b8 := by
  simp only [decodeFrame, decodedResult, ← BitVec.toNat_inj, checksum_toNat, replyOf, sext32_joinBytes]

/-- ENCODE of an `i32` value answers its frame, whatever the channel is. -/
theorem exec_encode_of_inI32 {v : Int} (hv : inI32 v = true) (a c t m : Nat) (s : State) :
    exec (.encode a c t m v) s = .next (s.respond s.chan s.draws (.frame (commandFrame a c t m v))) := by
  simp [exec, execEncode, encodeVerdict, hv]

/-- CHECK of nine bytes answers what they decode to, whatever the channel is. -/
theorem exec_check_nine (b0 b1 b2 b3 b4 b5 b6 b7 b8 : Byte) (s : State) :
    exec (.check [b0, b1, b2, b3, b4, b5, b6, b7, b8]) s
      = .next (s.respond s.chan s.draws (.result (decodedResult b0 b1 b2 b3 b4 b5 b6 b7 b8))) := by
  rw [← decodeFrame_nine]
  rfl

theorem exec_send_of_closed {s : State} (hclosed : s.chan.isOpen = false) (a c t m : Nat) (v : Int) :
    exec (.send a c t m v) s = .next s.refuse := by
  cases hv : inI32 v <;> simp [exec, execSend, sendVerdict, hv, hclosed]

theorem exec_poll_of_closed {s : State} (hclosed : s.chan.isOpen = false) : exec .poll s = .next s.refuse := by
  simp [exec, execPoll, readStuck, pollVerdict, hclosed]

/-- Settles O9: the channel check refuses SEND and POLL; ENCODE and CHECK answer without reading the open flag. -/
theorem closedChannelRefusesSendAndPoll : Obligations.ClosedChannelRefusesSendAndPoll :=
  fun s hclosed => ⟨exec_send_of_closed hclosed, exec_poll_of_closed hclosed,
    fun a c t m v hv => ⟨commandFrame a c t m v, commandFrame_toList a c t m v, exec_encode_of_inI32 hv a c t m s⟩,
    fun b0 b1 b2 b3 b4 b5 b6 b7 b8 => exec_check_nine b0 b1 b2 b3 b4 b5 b6 b7 b8 s⟩

end Sys2Proof.Machine
end

section
/-! PROOFS. The family 20_memory: a POLL that finds fewer than 9 bytes leaves the channel as it was, so it can be repeated (R40). -/

namespace Sys2Proof.Machine

/-- With fewer than 9 bytes there a POLL reads nothing, so no read of it can fail (60_exceptions.md R91). -/
theorem readStuck_of_short {c : Channel} (hshort : c.rx.length < 9) (l : Launch) (d : Draws) : readStuck l c d = false := by
  rw [Bool.eq_false_iff, ne_eq, readStuck_iff]
  rintro ⟨-, -, hnine, -⟩
  omega

/-- POLL below 9 bytes on the open channel answers `NotReady` and takes nothing (41_deserializer.md R79, R80). -/
theorem exec_poll_of_short {s : State} (hopen : s.chan.isOpen = true) (hshort : s.chan.rx.length < 9) :
    exec .poll s = .next (s.respond s.chan s.draws (.result .notReady)) := by
  have hverdict : pollVerdict s.launch s.chan s.draws = .respond s.chan s.draws (.result .notReady) := by
    simp [pollVerdict, Channel.rxAvail, hopen, hshort]
  simp [exec, execPoll, readStuck_of_short hshort, hverdict]

/-- Settles O21: the first POLL answers `NotReady` with the channel as it was, so `exec_poll_of_short` holds of the second too,
and its answer is the response already there. -/
theorem notReadyPollIsIdempotent : Obligations.NotReadyPollIsIdempotent := by
  intro s t h _ hopen hshort
  obtain rfl : s.respond s.chan s.draws (.result .notReady) = t := by
    simpa [exec_poll_of_short hopen hshort] using h
  exact ⟨rfl, exec_poll_of_short hopen hshort⟩

end Sys2Proof.Machine
end

section
/-! PROOFS. The family 30_encoding: the `op` codes and the fields an operation reads, decoding against encoding, the 8-bit
reduction, what ENCODE and CHECK answer, and the host's statements and listings. -/

namespace Sys2Proof

/-! ### A request by its code -/

theorem Request.decode_of_op_eq_zero {q : Request} (h : q.op = 0) :
    q.decode = .ok (.encode q.address q.command q.type q.motor q.value) := by
  simp only [Request.decode, h]

theorem Request.decode_of_op_eq_one {q : Request} (h : q.op = 1) :
    q.decode = .ok (.send q.address q.command q.type q.motor q.value) := by
  simp only [Request.decode, h]

theorem Request.decode_of_op_eq_two {q : Request} (h : q.op = 2) : q.decode = .ok (.check q.frameIn) := by
  simp only [Request.decode, h]

theorem Request.decode_of_op_eq_three {q : Request} (h : q.op = 3) : q.decode = .ok .poll := by
  simp only [Request.decode, h]

theorem Request.decode_of_four_le_op {q : Request} (h : 4 ≤ q.op) : q.decode = .error (.opOutOfRange q.op) := by
  obtain ⟨n, hn⟩ := Nat.exists_eq_add_of_le' h
  simp only [Request.decode, hn]

/-- Everything a request that decodes can decode to. -/
theorem Request.decode_cases {q : Request} {i : Instr} (h : q.decode = .ok i) :
    i = .encode q.address q.command q.type q.motor q.value ∨ i = .send q.address q.command q.type q.motor q.value
    ∨ i = .check q.frameIn ∨ i = .poll := by
  unfold Request.decode at h
  split at h
  · exact .inl (Except.ok.inj h).symm
  · exact .inr (.inl (Except.ok.inj h).symm)
  · exact .inr (.inr (.inl (Except.ok.inj h).symm))
  · exact .inr (.inr (.inr (Except.ok.inj h).symm))
  · cases h

/-! ### Decoding against encoding -/

/-- A 32-bit pattern keeps an `i32` (41_deserializer.md R86). -/
theorem sext32_u32Of {v : Int} (hv : inI32 v = true) : sext32 (u32Of v) = v := by
  obtain ⟨hlow, hhigh⟩ := (inI32_iff v).mp hv
  simp only [sext32, u32Of_toNat]
  split <;> omega

/-- Exactly what the decoder accepts: 18 bytes or more, of which the first 18 are a request that decodes. -/
theorem decodeBytes_eq_ok_iff (bs : List Byte) (i : Instr) (rest : List Byte) :
    decodeBytes bs = .ok (i, rest) ↔ 18 ≤ bs.length ∧ (Request.ofLayout bs).decode = .ok i ∧ bs.drop 18 = rest := by
  unfold decodeBytes
  by_cases hlen : bs.length < 18
  · simp [hlen]
  · cases hdec : (Request.ofLayout bs).decode with
    | ok j => simp [hlen, Nat.le_of_not_lt hlen]
    | error e => simp [hlen]

/-- Reading a request's 18 bytes back gives its fields as the bytes hold them, whatever follows. -/
theorem Request.ofLayout_toLayout_append (q : Request) (rest : List Byte) :
    Request.ofLayout (q.toLayout ++ rest) = ⟨q.op % 256, q.address % 256, q.command % 256, q.type % 256, q.motor % 256,
      sext32 (u32Of q.value), (Frame.ofList q.frameIn).toList⟩ := by
  simp [Request.ofLayout, Request.toLayout, Frame.toList, Frame.ofList, toU8_toNat]

/-- The encoded request decodes to the operation with its 8-bit fields reduced (30_encoding.md R50). -/
theorem decode_ofLayout_encode_append {i : Instr} (hwf : i.wf = true) (rest : List Byte) :
    (Request.ofLayout (encode i ++ rest)).decode = .ok i.reduce := by
  rw [encode, Request.ofLayout_toLayout_append]
  cases i with
  | encode a c t m v => simp only [Instr.toRequest, sext32_u32Of hwf]; rfl
  | send a c t m v => simp only [Instr.toRequest, sext32_u32Of hwf]; rfl
  | check bs =>
    have hlen : bs.length = 9 := by simpa [Instr.wf, isFrameLength] using hwf
    simp only [Instr.toRequest, Frame.toList_ofList hlen]
    rfl
  | poll => rfl

theorem encode_length : ∀ i : Instr, (encode i).length = 18
  | .encode a c t m v => (Laws.EncodedForm.encode a c t m v).1
  | .send a c t m v => (Laws.EncodedForm.send a c t m v).1
  | .check bs => (Laws.EncodedForm.check bs).1
  | .poll => Laws.EncodedForm.poll.1

/-- Settles O27: the encoding is 18 bytes, which are read back as the reduced operation, and the rest is what follows them. -/
theorem decodeGivesBackTheEncodedOperation : Obligations.DecodeGivesBackTheEncodedOperation := by
  intro i rest hwf
  have hlen := encode_length i
  rw [decodeBytes_eq_ok_iff]
  exact ⟨by simp [hlen], decode_ofLayout_encode_append hwf rest, List.drop_left' hlen⟩

/-- A request read from bytes decodes to a well-formed operation: four bytes are an `i32`, and `frame_in` has nine. -/
theorem wf_of_decode_ofLayout {bs : List Byte} {i : Instr} (h : (Request.ofLayout bs).decode = .ok i) : i.wf = true := by
  rcases Request.decode_cases h with rfl | rfl | rfl | rfl
  · exact inI32_sext32 _
  · exact inI32_sext32 _
  · rfl
  · rfl

/-- And to one with its 8-bit fields reduced: each was read from one byte. -/
theorem reduce_of_decode_ofLayout {bs : List Byte} {i : Instr} (h : (Request.ofLayout bs).decode = .ok i) :
    i.reduce = i := by
  have hbyte (n : Nat) : (bs.getD n 0).toNat % 256 = (bs.getD n 0).toNat := Nat.mod_eq_of_lt (bs.getD n 0).isLt
  rcases Request.decode_cases h with rfl | rfl | rfl | rfl
  · simp only [Request.ofLayout, Instr.reduce, hbyte]
  · simp only [Request.ofLayout, Instr.reduce, hbyte]
  · rfl
  · rfl

/-- Settles O28: what decodes was read from bytes, so it is well-formed and reduced, and its encoding
gives it back. -/
theorem decodedOperationsAreWellFormed : Obligations.DecodedOperationsAreWellFormed := by
  intro bs i rest h
  obtain ⟨hlen, hdec, rfl⟩ := (decodeBytes_eq_ok_iff bs i rest).mp h
  have hwf := wf_of_decode_ofLayout hdec
  have hreduce := reduce_of_decode_ofLayout hdec
  have hback := decodeGivesBackTheEncodedOperation i (bs.drop 18) hwf
  rw [hreduce] at hback
  exact ⟨hwf, hreduce, (List.take_append_drop 18 bs).symm, by rw [List.length_drop]; omega, hback⟩

/-- Settles O29: each word is 18 bytes written out, read by the decoder. -/
theorem writtenOutRequestsDecode : Obligations.WrittenOutRequestsDecode := by
  unfold Obligations.WrittenOutRequestsDecode
  decide

end Sys2Proof

namespace Sys2Proof.Machine

/-! ### The request a host issues -/

/-- Settles O25: one equation a code; an `op` of 4 or more decodes to no operation, so issuing it is a refusal. -/
theorem opCodesSelectTheOperations : Obligations.OpCodesSelectTheOperations :=
  fun _ => ⟨Request.decode_of_op_eq_zero, Request.decode_of_op_eq_one, Request.decode_of_op_eq_two,
    Request.decode_of_op_eq_three,
    fun h => ⟨Request.decode_of_four_le_op h, issue_of_decode_error (Request.decode_of_four_le_op h)⟩⟩

/-- The block sees of a request only what it decodes to. -/
theorem issue_congr {q q' : Request} (h : q.decode = q'.decode) (s : State) : issue q s = issue q' s := by
  simp only [issue, h]

/-- Settles O26: requests that agree on the fields their operation reads decode alike. -/
theorem unreadFieldsAreIgnored : Obligations.UnreadFieldsAreIgnored := by
  intro q q' s hop
  refine ⟨fun hle ha hc ht hm hv => issue_congr ?_ s, fun htwo hframe => issue_congr ?_ s, fun hle => issue_congr ?_ s⟩
  · rcases Nat.le_one_iff_eq_zero_or_eq_one.mp hle with h | h
    · rw [Request.decode_of_op_eq_zero h, Request.decode_of_op_eq_zero (hop ▸ h), ha, hc, ht, hm, hv]
    · rw [Request.decode_of_op_eq_one h, Request.decode_of_op_eq_one (hop ▸ h), ha, hc, ht, hm, hv]
  · rw [Request.decode_of_op_eq_two htwo, Request.decode_of_op_eq_two (hop ▸ htwo), hframe]
  · rcases Nat.eq_or_lt_of_le hle with h | h
    · rw [Request.decode_of_op_eq_three h.symm, Request.decode_of_op_eq_three (hop ▸ h.symm)]
    · rw [Request.decode_of_four_le_op h, Request.decode_of_four_le_op (hop ▸ h), hop]

/-! ### The 8-bit reduction -/

@[simp] theorem commandFrame_mod (a c t m : Nat) (v : Int) :
    commandFrame (a % 256) (c % 256) (t % 256) (m % 256) v = commandFrame a c t m v := by
  simp only [commandFrame, toU8_mod]

@[simp] theorem verdictOf_reduce (l : Launch) (c : Channel) (d : Draws) (i : Instr) :
    verdictOf l c d i.reduce = verdictOf l c d i := by
  cases i with
  | encode => simp only [Instr.reduce, verdictOf, encodeVerdict, commandFrame_mod]
  | send => simp only [Instr.reduce, verdictOf, sendVerdict, commandFrame_mod]
  | check | poll => rfl

@[simp] theorem stopsOn_reduce (l : Launch) (c : Channel) (d : Draws) (i : Instr) :
    stopsOn l c d i.reduce = stopsOn l c d i := by
  cases i <;> rfl

/-- Settles O8: the verdict reads the 8-bit fields through the frame alone, whose bytes are the fields reduced. -/
theorem byteFieldsAreReducedModulo256 : Obligations.ByteFieldsAreReducedModulo256 := by
  refine ⟨fun i s => ?_, fun a c t m v s hv => ⟨commandFrame a c t m v, exec_encode_of_inI32 hv a c t m s,
    toU8_toNat a, toU8_toNat c, toU8_toNat t, toU8_toNat m⟩⟩
  simp only [exec_eq_settle, verdictOf_reduce, stopsOn_reduce]

/-! ### What ENCODE and CHECK answer -/

theorem exec_encode_of_not_inI32 {v : Int} (hv : inI32 v = false) (a c t m : Nat) (s : State) :
    exec (.encode a c t m v) s = .next s.refuse := by
  simp [exec, execEncode, encodeVerdict, hv]

theorem exec_check_of_length_ne {bs : List Byte} (hlen : bs.length ≠ 9) (s : State) :
    exec (.check bs) s = .next s.refuse := by
  simp [exec, execCheck, checkVerdict, isFrameLength, hlen]

/-- Settles O3: in range the frame is the one written out by arithmetic; out of range the shape check refuses. -/
theorem encodeAnswersTheCommandFrame : Obligations.EncodeAnswersTheCommandFrame := by
  intro a c t m v s
  refine ⟨fun hlow hhigh => ?_, fun hout => exec_encode_of_not_inI32 ?_ a c t m s⟩
  · have hv : inI32 v = true := (inI32_iff v).mpr ⟨hlow, hhigh⟩
    exact ⟨commandFrame a c t m v, commandFrame_toList a c t m v, exec_encode_of_inI32 hv a c t m s⟩
  · rw [Bool.eq_false_iff, ne_eq, inI32_iff]
    omega

/-- Settles O15: nine bytes are decoded, any other length is refused. -/
theorem checkAnswersTheDecodedFrame : Obligations.CheckAnswersTheDecodedFrame :=
  fun s => ⟨fun b0 b1 b2 b3 b4 b5 b6 b7 b8 => exec_check_nine b0 b1 b2 b3 b4 b5 b6 b7 b8 s,
    fun _ hlen => exec_check_of_length_ne hlen s⟩

/-! ### The host's statements and listings -/

/-- On the host's turn the statement at `hpc` runs. -/
theorem step_of_stmt {s : State} {stmt : Stmt} (hturn : nextTurn s.agenda = .host)
    (hstmt : s.launch.program[s.hpc]? = some stmt) : step s = runStmt stmt { s with agenda := s.agenda.tail } := by
  simp [step_of_nextTurn hturn, runTurn, hostTurn, hstmt]

/-- Past the program's end the host does nothing with its turn. -/
theorem step_of_program_end {s : State} (hturn : nextTurn s.agenda = .host)
    (hnone : s.launch.program[s.hpc]? = none) : step s = .next { s with agenda := s.agenda.tail } := by
  simp [step_of_nextTurn hturn, runTurn, hostTurn, hnone]

/-- Settles O32: each statement runs as `runStmt` says, the turn taken off the agenda. -/
theorem hostStatementsMoveTheHostOnly : Obligations.HostStatementsMoveTheHostOnly := by
  intro s hturn
  refine ⟨fun tag target hstmt => ?_, fun _ => step_of_stmt hturn, step_of_stmt hturn, step_of_program_end hturn⟩
  rw [step_of_stmt hturn hstmt]
  exact ⟨fun htaken => by simp [runStmt, htaken], fun hnot => by simp [runStmt, hnot]⟩

/-- A listing assembles by its expansion alone. -/
theorem assemble_congr {lines lines' : List Line} (h : expandWait lines = expandWait lines') :
    assemble lines = assemble lines' := by
  rw [assemble, assemble, h]

/-- Settles O34: after the lines before it a `WAIT` expands to the label and the two statements, which expand to themselves. -/
theorem waitIsPollAndBranchBack : Obligations.WaitIsPollAndBranchBack := by
  intro l pre rest
  apply assemble_congr
  rw [expandWait_append, expandWait_append]
  rfl

end Sys2Proof.Machine
end

section
/-! PROOFS. The family 40_serializer: ENCODE's frame as a function of its operands, what SEND writes under each draw, and which
changes to a frame its checksum detects (40_serializer.md R63 to R69). -/

namespace Sys2Proof

theorem toU8_eq_iff (m n : Nat) : toU8 m = toU8 n ↔ m % 256 = n % 256 := by
  rw [← BitVec.toNat_inj, toU8_toNat, toU8_toNat]

/-! ### A frame with bytes changed -/

/-- The frame with `d` added to byte `i`, modulo 256. Every change of one byte is one of these: `Frame.ofList_set`. -/
def Frame.addAt (f : Frame) (i : Nat) (d : Byte) : Frame := Frame.ofList (f.toList.set i (f.toList.getD i 0 + d))

theorem Frame.toList_addAt (f : Frame) (i : Nat) (d : Byte) :
    (f.addAt i d).toList = f.toList.set i (f.toList.getD i 0 + d) :=
  Frame.toList_ofList (by simp)

theorem Frame.ofList_set (f : Frame) (i : Nat) (b : Byte) :
    Frame.ofList (f.toList.set i b) = f.addAt i (b - f.toList.getD i 0) := by
  rw [Frame.addAt, add_sub_cancel]

theorem Frame.getD_addAt_of_ne (f : Frame) {i j : Nat} (hij : i ≠ j) (d : Byte) :
    (f.addAt i d).toList.getD j 0 = f.toList.getD j 0 := by
  rw [Frame.toList_addAt, List.getD_eq_getElem?_getD, List.getElem?_set_ne hij, List.getD_eq_getElem?_getD]

/-- Changing two bytes at once is changing one after the other. -/
theorem Frame.ofList_set_set (f : Frame) {i j : Nat} (hij : i ≠ j) (d e : Byte) :
    Frame.ofList ((f.toList.set i (f.toList.getD i 0 + d)).set j (f.toList.getD j 0 + e))
      = (f.addAt i d).addAt j e := by
  rw [← Frame.toList_addAt, ← Frame.getD_addAt_of_ne f hij d]
  rfl

theorem Frame.b8_addAt_of_lt (f : Frame) {i : Nat} (hi : i < 8) (d : Byte) : (f.addAt i d).b8 = f.b8 :=
  Frame.getD_addAt_of_ne f hi.ne d

theorem Frame.b8_addAt_eight (f : Frame) (d : Byte) : (f.addAt 8 d).b8 = f.b8 + d := rfl

end Sys2Proof

namespace Sys2Proof.Machine

/-! ### ENCODE's frame -/

/-- Read as a reply, a command frame holds its address, its type and its value. -/
theorem replyOf_commandFrame {v : Int} (hv : inI32 v = true) (a c t m : Nat) :
    replyOf (commandFrame a c t m v) = ⟨toU8 a, toU8 t, v⟩ := by
  simp [replyOf, commandFrame, sext32_u32Of hv]

/-- The frame holds the four 8-bit fields reduced and the value, and is built from nothing else. -/
theorem commandFrame_eq_iff {v v' : Int} (hv : inI32 v = true) (hv' : inI32 v' = true) (a c t m a' c' t' m' : Nat) :
    commandFrame a c t m v = commandFrame a' c' t' m' v'
      ↔ a % 256 = a' % 256 ∧ c % 256 = c' % 256 ∧ t % 256 = t' % 256 ∧ m % 256 = m' % 256 ∧ v = v' := by
  constructor
  · intro h
    have hbyte (b : Frame → Byte) : b (commandFrame a c t m v) = b (commandFrame a' c' t' m' v') := congrArg b h
    have hvalue : (replyOf (commandFrame a c t m v)).value = (replyOf (commandFrame a' c' t' m' v')).value := by rw [h]
    rw [replyOf_commandFrame hv, replyOf_commandFrame hv'] at hvalue
    exact ⟨(toU8_eq_iff a a').mp (hbyte Frame.b0), (toU8_eq_iff c c').mp (hbyte Frame.b1),
      (toU8_eq_iff t t').mp (hbyte Frame.b2), (toU8_eq_iff m m').mp (hbyte Frame.b3), hvalue⟩
  · rintro ⟨ha, hc, ht, hm, rfl⟩
    rw [← commandFrame_mod a, ha, hc, ht, hm, commandFrame_mod]

/-- Settles O7: ENCODE answers `commandFrame`, which is injective on the reduced fields and the value. -/
theorem encodeIsInjectiveOnReducedOperands : Obligations.EncodeIsInjectiveOnReducedOperands :=
  fun a c t m a' c' t' m' v v' s hv hv' => ⟨commandFrame a c t m v, commandFrame a' c' t' m' v',
    exec_encode_of_inI32 hv a c t m s, exec_encode_of_inI32 hv' a' c' t' m' s,
    commandFrame_eq_iff hv hv' a c t m a' c' t' m'⟩

/-! ### What SEND writes -/

theorem writeDraw_of_writeAlwaysFull {l : Launch} (hfull : l.writeAlwaysFull = true) (d : Draws) :
    writeDraw l d = .full :=
  if_pos hfull

theorem writeDraw_eq_nextWrite {l : Launch} (hoff : l.writeAlwaysFull = false) (d : Draws) :
    writeDraw l d = d.nextWrite := by
  simp [writeDraw, hoff]

/-- Settles O5: with the switch off the draw is `Draws.nextWrite`, the head of the listed draws or the free value. -/
theorem writeDrawsAreTakenInOrder : Obligations.WriteDrawsAreTakenInOrder := by
  intro l d hoff
  rw [writeDraw_eq_nextWrite hoff]
  exact ⟨fun w ws hd => by simp [Draws.nextWrite, Draws.afterWrite, hd],
    fun hd => by simp [Draws.nextWrite, Draws.afterWrite, hd]⟩

/-- SEND of an `i32` value on the open channel writes its frame under the draw it meets. -/
theorem exec_send_of_open {v : Int} {s : State} (hv : inI32 v = true) (hopen : s.chan.isOpen = true) (a c t m : Nat) :
    exec (.send a c t m v) s
      = .next (s.respond (s.chan.write (commandFrame a c t m v).toList (writeDraw s.launch s.draws)) s.draws.afterWrite
          (.send (writeResult (writeDraw s.launch s.draws)))) := by
  simp [exec, execSend, sendVerdict, hv, hopen]

/-- Where the shape check or the channel check fails, SEND is refused. -/
theorem exec_send_of_refused {v : Int} {s : State} (hno : ¬(inI32 v = true ∧ s.chan.isOpen = true)) (a c t m : Nat) :
    exec (.send a c t m v) s = .next s.refuse := by
  by_cases hv : inI32 v = true
  · exact exec_send_of_closed (by simpa [hv] using hno) a c t m v
  · simp [exec, execSend, sendVerdict, hv]

/-- Settles O4: `exec_send_of_open` for each of the three draws, the frame written out by arithmetic; refused otherwise by
`exec_send_of_refused`. -/
theorem sendAppendsTheDrawnPrefix : Obligations.SendAppendsTheDrawnPrefix := by
  intro a c t m v s
  refine ⟨fun hlow hhigh hopen => ?_, fun hout => exec_send_of_refused ?_ a c t m⟩
  · have hv : inI32 v = true := (inI32_iff v).mpr ⟨hlow, hhigh⟩
    have hexec (w : WriteDraw) (hw : writeDraw s.launch s.draws = w) : exec (.send a c t m v) s
        = .next (s.respond (s.chan.write (commandBytes a c t m v) w) s.draws.afterWrite (.send (writeResult w))) := by
      rw [exec_send_of_open hv hopen, hw, commandFrame_toList]
    exact ⟨hexec .full, fun n => hexec (.short n), fun k => hexec (.fail k),
      fun hfull => writeDraw_of_writeAlwaysFull hfull s.draws⟩
  · rintro ⟨hv, hopen⟩
    obtain ⟨hlow, hhigh⟩ := (inI32_iff v).mp hv
    rcases hout with hout | hout | hclosed
    · omega
    · omega
    · simp [hclosed] at hopen

/-- Settles O6: ENCODE answers `commandFrame`, and SEND writes it. -/
theorem sendWritesTheFrameEncodeReturns : Obligations.SendWritesTheFrameEncodeReturns :=
  ⟨fun a c t m v s hv hopen => ⟨commandFrame a c t m v, _, _, exec_encode_of_inI32 hv a c t m s, rfl,
    exec_send_of_open hv hopen a c t m, rfl⟩, rfl, fun _ => rfl, fun _ => rfl⟩

/-! ### What the operations leave unchanged -/

/-- The frame of an operation that is neither SEND nor POLL. -/
theorem exec_frame_of_ne_send_poll {i : Instr} {s t : State} (hsend : ∀ a c ty m v, i ≠ .send a c ty m v)
    (hpoll : i ≠ .poll) (h : exec i s = .next t) :
    t.chan = s.chan ∧ t.launch = s.launch ∧ t.draws = s.draws ∧ t.agenda = s.agenda := by
  rcases exec_cases h with rfl | ⟨_, _, _, _, _, -, -, rfl⟩ | ⟨a, c, ty, m, v, hi, -⟩ | ⟨_, -, -, rfl⟩ | ⟨hi, -⟩ | ⟨hi, -⟩
  · exact ⟨rfl, rfl, rfl, rfl⟩
  · exact ⟨rfl, rfl, rfl, rfl⟩
  · exact absurd hi (hsend a c ty m v)
  · exact ⟨rfl, rfl, rfl, rfl⟩
  · exact absurd hi hpoll
  · exact absurd hi hpoll

/-- Settles O42: ENCODE and CHECK are neither SEND nor POLL. -/
theorem encodeAndCheckLeaveTheChannel : Obligations.EncodeAndCheckLeaveTheChannel := by
  rintro s t (⟨a, c, ty, m, v, h⟩ | ⟨bs, h⟩)
  · exact exec_frame_of_ne_send_poll (by simp) (by simp) h
  · exact exec_frame_of_ne_send_poll (by simp) (by simp) h

/-- Settles O43: an accepted SEND appends to `tx` and takes a draw; a refused one leaves both. -/
theorem sendTouchesOnlyTheTransmitLog : Obligations.SendTouchesOnlyTheTransmitLog := by
  intro a c ty m v s t h
  by_cases haccepted : inI32 v = true ∧ s.chan.isOpen = true
  · obtain ⟨hv, hopen⟩ := haccepted
    rw [exec_send_of_open hv hopen] at h
    cases h
    exact ⟨rfl, rfl, rfl, rfl, fun _ hj => List.getElem?_append_left hj, fun _ => List.drop_left,
      fun hno => absurd ⟨hv, hopen⟩ hno⟩
  · rw [exec_send_of_refused haccepted] at h
    cases h
    exact ⟨rfl, rfl, rfl, rfl, fun _ _ => rfl, fun h => absurd h haccepted, fun _ => ⟨rfl, rfl⟩⟩

/-! ### What the checksum detects -/

/-- Settles O11: the sum by `checksum_toNat`; the frame's byte 8 and DECODE_FRAME's comparison by `validFrame`; and the rule's
example, added up. -/
theorem checksumIsTheSumModulo256 : Obligations.ChecksumIsTheSumModulo256 :=
  ⟨checksum_toNat, fun a c t m v => (checksum_commandFrame a c t m v).symm, decodeFrame_eq_checksumError,
    fun _ => by simp [checksum_eq_add]⟩

/-- Adding `d` to one byte of a sequence adds `d` to its sum. -/
theorem sum8_set_add {s : List Byte} {i : Nat} (hi : i < s.length) (d : Byte) :
    sum8 (s.set i (s.getD i 0 + d)) = sum8 s + d := by
  induction s generalizing i with
  | nil => simp at hi
  | cons b s ih =>
    cases i with
    | zero =>
      rw [List.set_cons_zero, List.getD_cons_zero, sum8_cons, sum8_cons]
      ac_rfl
    | succ i =>
      rw [List.set_cons_succ, List.getD_cons_succ, sum8_cons, sum8_cons, ih (by simpa using hi), BitVec.add_assoc]

theorem sum8_perm {s s' : List Byte} (h : s.Perm s') : sum8 s = sum8 s' := by
  rw [sum8, sum8, (h.map BitVec.toNat).sum_nat]

theorem checksum_addAt_of_lt (f : Frame) {i : Nat} (hi : i < 8) (d : Byte) :
    checksum (f.addAt i d) = checksum f + d := by
  have hbyte : f.toList.getD i 0 = (f.toList.take 8).getD i 0 := by
    simp [List.getElem?_take_of_lt hi]
  rw [checksum, Frame.toList_addAt, List.take_set, hbyte, sum8_set_add (by simpa using hi), checksum]

/-- Byte 8 is no part of the sum. -/
theorem checksum_addAt_eight (f : Frame) (d : Byte) : checksum (f.addAt 8 d) = checksum f := rfl

/-- Adding `d` to a byte moves the checksum away from byte 8 by `d`, to one side or the other. -/
theorem not_validFrame_addAt {f : Frame} (hf : validFrame f) {i : Nat} (hi : i < 9) {d : Byte} (hd : d ≠ 0) :
    ¬ validFrame (f.addAt i d) := by
  rw [validFrame] at hf ⊢
  rcases Nat.lt_succ_iff_lt_or_eq.mp hi with hlt | rfl
  · rw [checksum_addAt_of_lt f hlt, Frame.b8_addAt_of_lt f hlt, hf]
    simpa using hd
  · rw [checksum_addAt_eight, Frame.b8_addAt_eight, hf]
    simpa using hd

theorem decodeFrame_set_of_ne {f : Frame} (hf : decodeFrame f ≠ .checksumError) {i : Nat} (hi : i < 9) {b : Byte}
    (hb : b ≠ f.toList.getD i 0) : decodeFrame (Frame.ofList (f.toList.set i b)) = .checksumError := by
  have hvalid : validFrame f := by simpa [decodeFrame_eq_checksumError] using hf
  rw [decodeFrame_eq_checksumError, Frame.ofList_set]
  exact not_validFrame_addAt hvalid hi (sub_ne_zero.mpr hb)

/-- Settles O13: a changed byte is detected, and a byte with one bit flipped is changed. -/
theorem oneByteChangeIsDetected : Obligations.OneByteChangeIsDetected := by
  intro f i hf
  refine ⟨fun b hb => decodeFrame_set_of_ne hf i.isLt hb, fun k => decodeFrame_set_of_ne hf i.isLt ?_⟩
  have hbit : BitVec.twoPow 8 k.val ≠ 0 := by
    revert k
    decide
  simpa using hbit

theorem validFrame_addAt_addAt_neg {f : Frame} {i j : Nat} (hi : i < 8) (hj : j < 8) (d : Byte) :
    validFrame ((f.addAt i d).addAt j (-d)) ↔ validFrame f := by
  simp only [validFrame, checksum_addAt_of_lt _ hi, checksum_addAt_of_lt _ hj, Frame.b8_addAt_of_lt _ hi,
    Frame.b8_addAt_of_lt _ hj, add_neg_cancel_right]

theorem validFrame_addAt_addAt_eight {f : Frame} {i : Nat} (hi : i < 8) (d : Byte) :
    validFrame ((f.addAt i d).addAt 8 d) ↔ validFrame f := by
  simp only [validFrame, checksum_addAt_of_lt _ hi, checksum_addAt_eight, Frame.b8_addAt_of_lt _ hi,
    Frame.b8_addAt_eight, add_left_inj]

/-- Flipping bit 7 adds 128, without a carry out of the byte or with it. -/
theorem xor_bit7_eq_add : ∀ b : Byte, b ^^^ 128#8 = b + 128#8 := by
  decide

theorem decodeFrame_checksumError_congr {f g : Frame} (h : validFrame f ↔ validFrame g) :
    decodeFrame f = .checksumError ↔ decodeFrame g = .checksumError := by
  rw [decodeFrame_eq_checksumError, decodeFrame_eq_checksumError, h]

/-- Settles O14: a reordering keeps the sum; in the other cases the two changes cancel, in the sum or in its comparison with
byte 8. Flipping bit 7 adds 128 to each of the two bytes, and 128 is its own negative. -/
theorem cancellingChangesGoUndetected : Obligations.CancellingChangesGoUndetected := by
  refine ⟨fun f g hperm hb8 => decodeFrame_checksumError_congr ?_, fun f i j d hij => ?_⟩
  · rw [validFrame, validFrame, checksum, checksum, sum8_perm hperm, hb8]
  · have hij : i.val ≠ j.val := Fin.val_ne_of_ne hij
    have hb8 : f.b8 = f.toList.getD 8 0 := rfl
    refine ⟨decodeFrame_checksumError_congr ?_, decodeFrame_checksumError_congr ?_, decodeFrame_checksumError_congr ?_⟩
    · rw [sub_eq_add_neg, Frame.ofList_set_set f hij]
      exact validFrame_addAt_addAt_neg i.isLt j.isLt d
    · rw [xor_bit7_eq_add, xor_bit7_eq_add, Frame.ofList_set_set f hij]
      exact validFrame_addAt_addAt_neg i.isLt j.isLt 128#8
    · rw [hb8, Frame.ofList_set_set f i.isLt.ne]
      exact validFrame_addAt_addAt_eight i.isLt d

end Sys2Proof.Machine
end

section
/-! PROOFS. The family 41_deserializer: the value conversions and the frames that decode to their fields (41_deserializer.md
R84 to R86), POLL by what it finds in the channel (R79 to R81, R87), and the windows POLL consumes over a run (R88). -/

namespace Sys2Proof

/-- Sign extension keeps a 32-bit pattern (41_deserializer.md R86). -/
theorem u32Of_sext32 (u : Word32) : u32Of (sext32 u) = u := by
  apply BitVec.eq_of_toNat_eq
  rw [u32Of_toNat, sext32]
  split <;> omega

/-- Settles O24: one direction needs the value to be an `i32`, the other holds of every pattern. -/
theorem valueConversionsAreInverse : Obligations.ValueConversionsAreInverse :=
  ⟨fun _ => sext32_u32Of, u32Of_sext32⟩

/-- The four big-endian bytes of a value, written out by arithmetic, reassemble to its pattern. -/
theorem joinBytes_value (v : Int) :
    let u := (v % 4294967296).toNat
    joinBytes (BitVec.ofNat 8 (u / 16777216)) (BitVec.ofNat 8 (u / 65536)) (BitVec.ofNat 8 (u / 256)) (BitVec.ofNat 8 u)
      = u32Of v := by
  simpa [byteAt_eq_ofNat, u32Of_toNat] using joinBytes_byteAt (u32Of v)

end Sys2Proof

namespace Sys2Proof.Machine

/-! ### Frames that decode to their fields -/

/-- DECODE_FRAME accepts a frame whose checksum matches (30_encoding.md R57). -/
theorem decodeFrame_of_validFrame {f : Frame} (hf : validFrame f) : decodeFrame f = .ok (replyOf f) :=
  if_pos hf

/-- Settles O22: a command frame's checksum matches, and read as a reply it holds address, type and value. -/
theorem commandFrameRoundTrip : Obligations.CommandFrameRoundTrip := by
  intro a c t m v _ _ _ _ hv
  rw [decodeFrame_of_validFrame (checksum_commandFrame a c t m v), replyOf_commandFrame hv]
  rfl

/-- Settles O23: byte 8 is the sum of the eight bytes before it by construction; the value comes back by `joinBytes_value`. -/
theorem replyFrameRoundTrip : Obligations.ReplyFrameRoundTrip := by
  intro ra ma st x v hv u g
  have hvalid : validFrame (Frame.ofList (g ++ [sum8 g])) := rfl
  have hvalue : (replyOf (Frame.ofList (g ++ [sum8 g]))).value = v :=
    (congrArg sext32 (joinBytes_value v)).trans (sext32_u32Of hv)
  calc decodeFrame (Frame.ofList (g ++ [sum8 g]))
    _ = .ok (replyOf (Frame.ofList (g ++ [sum8 g]))) := decodeFrame_of_validFrame hvalid
    _ = .ok ⟨ra, st, (replyOf (Frame.ofList (g ++ [sum8 g]))).value⟩ := rfl
    _ = .ok ⟨ra, st, v⟩ := by rw [hvalue]

/-! ### POLL by what it finds -/

/-- The state after a POLL that takes the oldest 9 bytes and answers what they decode to (41_deserializer.md R79). -/
def State.pollTaken (s : State) : State :=
  s.respond { s.chan with rx := s.chan.rx.drop 9 } (drawsAfterRead s.launch s.draws)
    (.result (decodeFrame (Frame.ofList (s.chan.rx.take 9))))

/-- POLL from 9 bytes on the open channel: the read fails (60_exceptions.md R91), or the oldest 9 are taken and decoded. -/
theorem exec_poll_of_nine_le {s : State} (hopen : s.chan.isOpen = true) (hnine : 9 ≤ s.chan.rx.length) :
    exec .poll s = if readStuck s.launch s.chan s.draws then .fault .readFailed else .next s.pollTaken := by
  simp [exec, execPoll, pollVerdict, Channel.rxAvail, Channel.read, State.pollTaken, hopen, Nat.not_lt.mpr hnine]

/-- With `READ_CAN_FAIL` at its default no read fails. -/
theorem exec_poll_of_nine_le_of_readsSucceed {s : State} (hopen : s.chan.isOpen = true) (hnine : 9 ≤ s.chan.rx.length)
    (hread : s.launch.readCanFail = false) : exec .poll s = .next s.pollTaken := by
  simp [exec_poll_of_nine_le hopen hnine, readStuck, hread]

/-- Everything a POLL's next state can be, with what it found in the channel. -/
theorem exec_poll_cases {s t : State} (h : exec .poll s = .next t) :
    (s.chan.isOpen = false ∧ t = s.refuse)
    ∨ (s.chan.isOpen = true ∧ s.chan.rx.length < 9 ∧ t = s.respond s.chan s.draws (.result .notReady))
    ∨ (s.chan.isOpen = true ∧ 9 ≤ s.chan.rx.length ∧ t = s.pollTaken) := by
  cases hopen : s.chan.isOpen with
  | false =>
    rw [exec_poll_of_closed hopen] at h
    cases h
    exact .inl ⟨rfl, rfl⟩
  | true =>
    rcases Nat.lt_or_ge s.chan.rx.length 9 with hshort | hnine
    · rw [exec_poll_of_short hopen hshort] at h
      cases h
      exact .inr (.inl ⟨rfl, hshort, rfl⟩)
    · rw [exec_poll_of_nine_le hopen hnine] at h
      split at h
      · cases h
      · cases h
        exact .inr (.inr ⟨rfl, hnine, rfl⟩)

/-- POLL of nine bytes and any rest: the rest stays, the answer is the nine decoded by arithmetic. -/
theorem exec_poll_nine {b0 b1 b2 b3 b4 b5 b6 b7 b8 : Byte} {rest : List Byte} {s : State} (hopen : s.chan.isOpen = true)
    (hrx : s.chan.rx = b0 :: b1 :: b2 :: b3 :: b4 :: b5 :: b6 :: b7 :: b8 :: rest) (hread : s.launch.readCanFail = false) :
    exec .poll s = .next (s.respond { s.chan with rx := rest } s.draws
      (.result (decodedResult b0 b1 b2 b3 b4 b5 b6 b7 b8))) := by
  have hnine : 9 ≤ s.chan.rx.length := by simp [hrx]
  have hdraws : drawsAfterRead s.launch s.draws = s.draws := by simp [drawsAfterRead, hread]
  rw [exec_poll_of_nine_le_of_readsSucceed hopen hnine hread, State.pollTaken, hdraws, hrx, ← decodeFrame_nine]
  rfl

/-- Settles O16: the three cases of the channel POLL meets. -/
theorem pollConsumesTheOldestNineOrNothing : Obligations.PollConsumesTheOldestNineOrNothing :=
  fun _ hread => ⟨exec_poll_of_short, fun _ _ _ _ _ _ _ _ _ _ hopen hrx => exec_poll_nine hopen hrx hread,
    exec_poll_of_closed⟩

/-- Settles O44: by `exec_poll_cases`, only a POLL that finds 9 bytes on the open channel changes the channel. -/
theorem pollTouchesOnlyTheReceiveBuffer : Obligations.PollTouchesOnlyTheReceiveBuffer := by
  intro s t h
  rcases exec_poll_cases h with ⟨hclosed, rfl⟩ | ⟨-, hshort, rfl⟩ | ⟨hopen, hnine, rfl⟩
  · exact ⟨rfl, rfl, rfl, rfl, fun hopen => by simp [hclosed] at hopen, fun _ => rfl⟩
  · exact ⟨rfl, rfl, rfl, rfl, fun _ hnine => absurd hshort (Nat.not_lt.mpr hnine), fun _ => rfl⟩
  · refine ⟨rfl, rfl, rfl, rfl, fun _ _ => rfl, ?_⟩
    rintro (hclosed | hshort)
    · simp [hopen] at hclosed
    · exact absurd hshort (Nat.not_lt.mpr hnine)

/-- Settles O17: 8 bytes are too few; 9 are the whole buffer, and DECODE_FRAME accepts them. -/
theorem notReadyBoundaryIsNineBytes : Obligations.NotReadyBoundaryIsNineBytes := by
  intro s hopen hread
  refine ⟨fun height => ⟨_, exec_poll_of_short hopen (by omega), rfl⟩, fun hnine hvalid => ?_⟩
  refine ⟨_, replyOf (Frame.ofList s.chan.rx), exec_poll_of_nine_le_of_readsSucceed hopen hnine.ge hread, ?_⟩
  rw [State.pollTaken, State.respond_resp, List.take_of_length_le hnine.le, decodeFrame_of_validFrame hvalid]

/-- Settles O18: POLL answers on both sides of the boundary. -/
theorem pollNeverWaits : Obligations.PollNeverWaits := by
  intro s hopen hread
  rcases Nat.lt_or_ge s.chan.rx.length 9 with hshort | hnine
  · exact ⟨_, .notReady, exec_poll_of_short hopen hshort, rfl, rfl⟩
  · exact ⟨_, _, exec_poll_of_nine_le_of_readsSucceed hopen hnine hread, rfl, rfl⟩

/-- Settles O20: both operations answer what the nine bytes decode to. -/
theorem pollAnswersAsCheckDoes : Obligations.PollAnswersAsCheckDoes := by
  intro bs rest s hlen hopen hrx hread
  obtain ⟨b0, b1, b2, b3, b4, b5, b6, b7, b8, rfl⟩ := exists_nine_of_length hlen
  exact ⟨_, _, exec_poll_nine hopen hrx hread, exec_check_nine b0 b1 b2 b3 b4 b5 b6 b7 b8 s, rfl⟩

/-! ### The windows POLL consumes over a run -/

/-- The next step is a POLL that finds 9 bytes on the open channel: the condition of `windowTaken`. -/
def State.takesWindow (s : State) : Prop :=
  s.nextInstr = some .poll ∧ s.chan.isOpen = true ∧ 9 ≤ s.chan.rx.length

theorem windowTaken_of_takesWindow {s : State} (hwin : s.takesWindow) : windowTaken s = [s.chan.rx.take 9] :=
  if_pos hwin

theorem windowTaken_of_not_takesWindow {s : State} (hwin : ¬ s.takesWindow) : windowTaken s = [] :=
  if_neg hwin

theorem mem_windowTaken {s : State} {w : List Byte} (hw : w ∈ windowTaken s) :
    s.takesWindow ∧ w = s.chan.rx.take 9 := by
  by_cases hwin : s.takesWindow
  · rw [windowTaken_of_takesWindow hwin] at hw
    exact ⟨hwin, List.mem_singleton.mp hw⟩
  · simp [windowTaken_of_not_takesWindow hwin] at hw

theorem length_of_mem_windowTaken {s : State} {w : List Byte} (hw : w ∈ windowTaken s) : w.length = 9 := by
  obtain ⟨⟨-, -, hnine⟩, rfl⟩ := mem_windowTaken hw
  exact List.length_take_of_le hnine

/-- Every step takes its turn off the agenda and puts none on it. -/
theorem step_agenda {s t : State} (h : step s = .next t) : t.agenda = s.agenda.tail := by
  rcases step_effects h with ⟨_, -, hexec⟩ | rfl | ⟨_, rfl⟩ | ⟨_, _, rfl⟩ | ⟨_, rfl⟩ | ⟨_, -, rfl⟩
  case inl => exact (exec_launch_agenda hexec).2
  all_goals rfl

/-- A step whose next operation is `i` runs `i`. -/
theorem step_of_nextInstr {s : State} {i : Instr} (hi : s.nextInstr = some i) :
    step s = exec i { s with agenda := s.agenda.tail } := by
  obtain ⟨hturn, q, hstmt, hdec⟩ := nextInstr_cases hi
  rw [step_of_request hturn hstmt, issue_of_decode_ok hdec]

theorem step_of_takesWindow {s t : State} (hwin : s.takesWindow) (h : step s = .next t) :
    t = State.pollTaken { s with agenda := s.agenda.tail } := by
  obtain ⟨hi, hopen, hnine⟩ := hwin
  rw [step_of_nextInstr hi] at h
  rcases exec_poll_cases h with ⟨hclosed, -⟩ | ⟨-, hshort, -⟩ | ⟨-, -, ht⟩
  · simp [hopen] at hclosed
  · exact absurd hshort (Nat.not_lt.mpr hnine)
  · exact ht

/-- The answer after a window is taken is that window decoded by itself. -/
theorem resp_of_mem_windowTaken {s t : State} {w : List Byte} (h : step s = .next t) (hw : w ∈ windowTaken s) :
    t.resp = some (.result (decodeFrame (Frame.ofList w))) := by
  obtain ⟨hwin, rfl⟩ := mem_windowTaken hw
  rw [step_of_takesWindow hwin h]
  rfl

theorem bytesDelivered_of_host {s : State} (hturn : nextTurn s.agenda = .host) : bytesDelivered s = [] := by
  simp [bytesDelivered, hturn]

/-- A host's turn that takes no window leaves `rx` as it was. -/
theorem hostTurn_rx_of_not_takesWindow {s t : State} (hwin : ¬ s.takesWindow) (hturn : nextTurn s.agenda = .host)
    (h : hostTurn { s with agenda := s.agenda.tail } = .next t) : t.chan.rx = s.chan.rx := by
  rcases hostTurn_cases h with ⟨q, i, hstmt, hdec, hexec⟩ | ⟨_, _, -, -, rfl⟩ | ⟨_, rfl, -⟩
  · rcases exec_rx hexec with hsame | ⟨rfl, hopen, hnine, -⟩
    · exact hsame
    · exact absurd ⟨nextInstr_eq_some hturn hstmt hdec, hopen, hnine⟩ hwin
  · rfl
  · rfl

/-- A step that takes no window and is no reset appends to `rx` what its turn delivers. -/
theorem step_rx_of_not_takesWindow {s t : State} (hwin : ¬ s.takesWindow) (h : step s = .next t)
    (hnoReset : ∀ rx0, nextTurn s.agenda ≠ .reset rx0) : t.chan.rx = s.chan.rx ++ bytesDelivered s := by
  rcases step_cases h with ⟨hturn, hhost⟩ | ⟨_, _, hturn, rfl⟩ | ⟨_, ⟨hturn, -⟩ | ⟨hturn, -⟩, rfl⟩ | ⟨hturn, rfl⟩
    | ⟨rx0, hturn, -⟩
  · rw [bytesDelivered_of_host hturn, List.append_nil]
    exact hostTurn_rx_of_not_takesWindow hwin hturn hhost
  · simp [bytesDelivered, hturn]
  · simp [bytesDelivered, hturn]
  · simp [bytesDelivered, hturn]
  · simp [bytesDelivered, hturn]
  · exact absurd hturn (hnoReset rx0)

/-- The conservation law of one step: what POLL takes followed by what is left is what was there followed by what arrives. -/
theorem windowTaken_append_rx {s t : State} (h : step s = .next t) (hnoReset : ∀ rx0, nextTurn s.agenda ≠ .reset rx0) :
    (windowTaken s).flatten ++ t.chan.rx = s.chan.rx ++ bytesDelivered s := by
  by_cases hwin : s.takesWindow
  · have hrx : t.chan.rx = s.chan.rx.drop 9 := by
      rw [step_of_takesWindow hwin h]
      rfl
    have hdelivered : bytesDelivered s = [] := bytesDelivered_of_host (nextInstr_cases hwin.1).1
    simp [windowTaken_of_takesWindow hwin, hrx, hdelivered]
  · simp [windowTaken_of_not_takesWindow hwin, step_rx_of_not_takesWindow hwin h hnoReset]

/-- What has passed through the channel once a first step from `s` to `t` is put before a run from `t`. -/
def Flow.afterStep (s t : State) (G : Flow) : Flow where
  windows := windowTaken s ++ G.windows
  answers := (windowTaken s).map (fun _ => t.resp) ++ G.answers
  arrived := bytesDelivered s ++ G.arrived
  last := G.last

theorem flow_succ_cases {k : Nat} {s : State} {F : Flow} (h : flow (k + 1) s = some F) :
    ∃ t G, step s = .next t ∧ flow k t = some G ∧ F = G.afterStep s t := by
  simp only [flow] at h
  split at h
  · rename_i t hstep
    obtain ⟨G, hG, rfl⟩ := Option.map_eq_some_iff.mp h
    exact ⟨t, G, hstep, hG, rfl⟩
  · cases h

/-- Settles O50, by induction on the number of steps: each step conserves the stream by `windowTaken_append_rx`, and the answer
to the window it takes is that window decoded. -/
theorem consumedWindowsAreAPrefixOfTheBytesReceived : Obligations.ConsumedWindowsAreAPrefixOfTheBytesReceived := by
  intro k
  induction k with
  | zero =>
    intro s F h _
    cases h
    simp
  | succ k ih =>
    intro s F h hnoReset
    obtain ⟨t, G, hstep, hflow, rfl⟩ := flow_succ_cases h
    have hnoReset' : noReset t.agenda := step_agenda hstep ▸ noReset_tail hnoReset
    obtain ⟨hstream, hlength, hanswers⟩ := ih t G hflow hnoReset'
    refine ⟨?_, fun w hw => ?_, ?_⟩
    · calc (windowTaken s ++ G.windows).flatten ++ G.last.chan.rx
        _ = (windowTaken s).flatten ++ (t.chan.rx ++ G.arrived) := by
          rw [List.flatten_append, List.append_assoc, hstream]
        _ = s.chan.rx ++ (bytesDelivered s ++ G.arrived) := by
          rw [← List.append_assoc, windowTaken_append_rx hstep (nextTurn_ne_reset hnoReset), List.append_assoc]
    · rcases List.mem_append.mp hw with hfirst | hrest
      · exact length_of_mem_windowTaken hfirst
      · exact hlength w hrest
    · have hfirst : (windowTaken s).map (fun _ => t.resp)
          = (windowTaken s).map fun w => some (.result (decodeFrame (Frame.ofList w))) :=
        List.map_congr_left fun w hw => resp_of_mem_windowTaken hstep hw
      simp only [Flow.afterStep, List.map_append, hfirst, hanswers]

end Sys2Proof.Machine
end

section
/-! PROOFS. The family 60_exceptions: the reason of each verdict and their order, the one stop under `READ_CAN_FAIL`, and the
sticky `refused` (60_exceptions.md R89 to R97). -/

namespace Sys2Proof.Machine

/-! ### What sets `refused` -/

/-- An operation is refused or leaves `refused` as it was. -/
theorem exec_refused {i : Instr} {s t : State} (h : exec i s = .next t) : t = s.refuse ∨ t.refused = s.refused := by
  rcases exec_cases h with ht | ⟨_, _, _, _, _, -, -, rfl⟩ | ⟨_, _, _, _, _, -, -, -, rfl⟩ | ⟨_, -, -, rfl⟩
    | ⟨-, -, -, rfl⟩ | ⟨-, -, -, rfl⟩
  case inl => exact .inl ht
  all_goals exact .inr rfl

/-- A step is refused, its turn taken, or leaves `refused` as it was. -/
theorem step_refused {s t : State} (h : step s = .next t) :
    t = State.refuse { s with agenda := s.agenda.tail } ∨ t.refused = s.refused := by
  rcases step_effects h with ⟨_, -, hexec⟩ | ht | ⟨_, rfl⟩ | ⟨_, _, rfl⟩ | ⟨_, rfl⟩ | ⟨_, -, rfl⟩
  case inl => exact exec_refused hexec
  case inr.inl => exact .inl ht
  all_goals exact .inr rfl

/-- Settles O47: by `step_refused` a step that is not the refusal itself keeps the flag, so it neither clears nor sets it. -/
theorem refusalIsStickyAndChangesNothingElse : Obligations.RefusalIsStickyAndChangesNothingElse := by
  refine ⟨fun _ _ => rfl, fun s t h => ?_⟩
  rcases step_refused h with rfl | hsame
  · exact ⟨fun _ => rfl, fun _ _ => rfl⟩
  · exact ⟨fun hset => hsame.trans hset, fun hclear hset => by simp [hsame, hclear] at hset⟩

/-- Settles O40: the second agent's turn is `State.refuse`. -/
theorem secondAgentIsRefused : Obligations.SecondAgentIsRefused :=
  fun _ hturn => step_of_nextTurn hturn

/-! ### The verdicts by their checks -/

theorem isFrameLength_iff (bs : List Byte) : isFrameLength bs = true ↔ bs.length = 9 := beq_iff_eq

theorem encodeVerdict_of_inI32 {v : Int} (hv : inI32 v = true) (a c t m : Nat) (ch : Channel) (d : Draws) :
    encodeVerdict a c t m v ch d = .respond ch d (.frame (commandFrame a c t m v)) :=
  if_pos hv

theorem encodeVerdict_of_not_inI32 {v : Int} (hv : inI32 v = false) (a c t m : Nat) (ch : Channel) (d : Draws) :
    encodeVerdict a c t m v ch d = .refuse .valueOutOfRange :=
  if_neg (ne_true_of_eq_false hv)

theorem sendVerdict_of_open {v : Int} {ch : Channel} (hv : inI32 v = true) (hopen : ch.isOpen = true) (a c t m : Nat)
    (l : Launch) (d : Draws) :
    sendVerdict a c t m v l ch d = .respond (ch.write (commandFrame a c t m v).toList (writeDraw l d)) d.afterWrite
      (.send (writeResult (writeDraw l d))) := by
  rw [sendVerdict, if_pos hv, if_pos hopen]

/-- The shape check comes first: the open flag does not matter (60_exceptions.md R94 step 1). -/
theorem sendVerdict_of_not_inI32 {v : Int} (hv : inI32 v = false) (a c t m : Nat) (l : Launch) (ch : Channel) (d : Draws) :
    sendVerdict a c t m v l ch d = .refuse .valueOutOfRange :=
  if_neg (ne_true_of_eq_false hv)

theorem sendVerdict_of_closed {v : Int} {ch : Channel} (hv : inI32 v = true) (hclosed : ch.isOpen = false) (a c t m : Nat)
    (l : Launch) (d : Draws) : sendVerdict a c t m v l ch d = .refuse .channelClosed := by
  rw [sendVerdict, if_pos hv, if_neg (ne_true_of_eq_false hclosed)]

theorem checkVerdict_of_length_eq {bs : List Byte} (hlen : bs.length = 9) (ch : Channel) (d : Draws) :
    checkVerdict bs ch d = .respond ch d (.result (decodeFrame (Frame.ofList bs))) :=
  if_pos ((isFrameLength_iff bs).mpr hlen)

theorem checkVerdict_of_length_ne {bs : List Byte} (hlen : bs.length ≠ 9) (ch : Channel) (d : Draws) :
    checkVerdict bs ch d = .refuse .frameLength :=
  if_neg (mt (isFrameLength_iff bs).mp hlen)

theorem pollVerdict_of_closed {ch : Channel} (hclosed : ch.isOpen = false) (l : Launch) (d : Draws) :
    pollVerdict l ch d = .refuse .channelClosed :=
  if_neg (ne_true_of_eq_false hclosed)

/-- On the open channel POLL's verdict is a result, on both sides of the 9-byte boundary. -/
theorem pollVerdict_of_open {ch : Channel} (hopen : ch.isOpen = true) (l : Launch) (d : Draws) :
    ∃ ch' d' r, pollVerdict l ch d = .respond ch' d' (.result r) := by
  rw [pollVerdict, if_pos hopen]
  split
  · exact ⟨_, _, _, rfl⟩
  · exact ⟨_, _, _, rfl⟩

/-- Settles O10: the verdict of each operation by the checks it makes, in their order. -/
theorem refusalReasonsInOrder : Obligations.RefusalReasonsInOrder :=
  ⟨fun a c t m _ ch d hv => encodeVerdict_of_not_inI32 hv a c t m ch d,
    fun a c t m _ l ch d hv => sendVerdict_of_not_inI32 hv a c t m l ch d,
    fun a c t m _ l _ d hv hclosed => sendVerdict_of_closed hv hclosed a c t m l d,
    fun _ ch d hlen => checkVerdict_of_length_ne hlen ch d,
    fun l _ d hclosed => pollVerdict_of_closed hclosed l d,
    fun a c t m _ ch d hv => ⟨_, encodeVerdict_of_inI32 hv a c t m ch d⟩,
    fun a c t m _ l _ d hv hopen => ⟨_, _, sendVerdict_of_open hv hopen a c t m l d⟩,
    fun _ ch d hlen => ⟨_, checkVerdict_of_length_eq hlen ch d⟩,
    fun l _ d hopen => pollVerdict_of_open hopen l d⟩

/-! ### The one stop -/

/-- The operation that stops is a POLL whose read fails (60_exceptions.md R91). -/
theorem stopsOn_eq_true {l : Launch} {c : Channel} {d : Draws} {i : Instr} (h : stopsOn l c d i = true) :
    i = .poll ∧ readStuck l c d = true := by
  cases i with
  | encode | send | check => cases h
  | poll => exact ⟨rfl, h⟩

/-- Settles O46: by `exec_eq_settle` an operation stops or settles its verdict, and what stops is what `readStuck_iff` says. -/
theorem onlyAFailedReadStopsAnOperation : Obligations.OnlyAFailedReadStopsAnOperation := by
  intro i s
  have hexec := exec_eq_settle i s
  split at hexec
  next hstops =>
    obtain ⟨hi, hstuck⟩ := stopsOn_eq_true hstops
    obtain ⟨hread, hopen, hnine, hfails⟩ := (readStuck_iff _ _ _).mp hstuck
    exact .inr ⟨hi, hread, hopen, hnine, hfails, hexec⟩
  next => exact .inl ⟨_, hexec⟩

/-- With the switch on, a POLL that finds 9 bytes stops exactly when its draw fails. -/
theorem readStuck_eq_nextReadFails {l : Launch} {c : Channel} (hread : l.readCanFail = true) (hopen : c.isOpen = true)
    (hnine : 9 ≤ c.rx.length) (d : Draws) : readStuck l c d = d.nextReadFails := by
  rw [Bool.eq_iff_iff, readStuck_iff]
  exact ⟨fun ⟨_, _, _, hfails⟩ => hfails, fun hfails => ⟨hread, hopen, hnine, hfails⟩⟩

theorem drawsAfterRead_of_readCanFail {l : Launch} (hread : l.readCanFail = true) (d : Draws) :
    drawsAfterRead l d = { d with reads := d.reads.tail, count := d.count + 1 } :=
  if_pos hread

theorem Draws.nextReadFails_of_cons {d : Draws} {b : Bool} {bs : List Bool} (h : d.reads = b :: bs) : d.nextReadFails = b := by
  rw [nextReadFails, h]

theorem Draws.nextReadFails_of_nil {d : Draws} (h : d.reads = []) : d.nextReadFails = Config.readFails d.count := by
  rw [nextReadFails, h]

/-- Settles O19: `exec_poll_of_nine_le` with the draw in place of `readStuck`; the draw is the head of the list, or free. -/
theorem failedReadLeavesPollNoStep : Obligations.FailedReadLeavesPollNoStep := by
  refine ⟨fun s hopen hnine hread => ?_, fun d => ⟨fun _ _ => Draws.nextReadFails_of_cons, Draws.nextReadFails_of_nil⟩⟩
  rw [exec_poll_of_nine_le hopen hnine, readStuck_eq_nextReadFails hread hopen hnine]
  refine ⟨fun hfails => if_pos hfails, fun hreads => ?_⟩
  rw [if_neg (ne_true_of_eq_false hreads), State.pollTaken, drawsAfterRead_of_readCanFail hread]
  rfl

/-! ### The parameters at reset -/

/-- Settles O2: the switches and the line at reset are the constants of `Launch.reset`; the free baud rate plays no part. -/
theorem resetTakesTheDefaultParameters : Obligations.ResetTakesTheDefaultParameters :=
  ⟨rfl, rfl, rfl, rfl, rfl, rfl, rfl, rfl, rfl⟩

end Sys2Proof.Machine
end

section
/-! PROOFS. The family 70_reset_and_hazards: what a reset leaves (R104, R105), and when a `WAIT` ends (R115). -/

namespace Sys2Proof.Machine

/-! ### A reset between operations -/

/-- Settles O41: the turn is `State.resetTurn`, which does not cut bytes that fit. -/
theorem resetKeepsTheTransmitLog : Obligations.ResetKeepsTheTransmitLog := by
  intro s rx0 hturn hfits
  simp [step_of_nextTurn hturn, runTurn, State.resetTurn, Launch.cut_of_fits hfits]

/-! ### The polling loop

A round of a `WAIT` is two turns of the host, the POLL and the branch. With too few bytes it comes back to where it began, with
nothing changed but the response and the turns used up; with 9 bytes it leaves the loop. -/

/-- The host stands at the two statements of a `WAIT` (30_encoding.md R61), the channel open. -/
structure State.atWait (s : State) : Prop where
  poll : ∃ q : Request, q.op = 3 ∧ s.launch.program[s.hpc]? = some (.request q)
  branch : s.launch.program[s.hpc + 1]? = some (.br .notReady s.hpc)
  isOpen : s.chan.isOpen = true

theorem State.atWait.congr {s t : State} (hwait : s.atWait) (hlaunch : t.launch = s.launch) (hhpc : t.hpc = s.hpc)
    (hopen : t.chan.isOpen = s.chan.isOpen) : t.atWait where
  poll := by rw [hlaunch, hhpc]; exact hwait.poll
  branch := by rw [hlaunch, hhpc]; exact hwait.branch
  isOpen := hopen.trans hwait.isOpen

/-- What polling in vain can change of a state: the response and the agenda, nothing else. -/
def State.waiting (s : State) (r : Option Response) (agenda : List Turn) : State := { s with resp := r, agenda := agenda }

theorem State.atWait.waiting {s : State} (hwait : s.atWait) (r : Option Response) (agenda : List Turn) :
    (s.waiting r agenda).atWait :=
  hwait.congr rfl rfl rfl

/-- On the host's turn a `WAIT` polls. -/
theorem step_of_atWait {s : State} (hwait : s.atWait) (hturn : nextTurn s.agenda = .host) :
    step s = exec .poll { s with agenda := s.agenda.tail } := by
  obtain ⟨q, hop, hstmt⟩ := hwait.poll
  rw [step_of_request hturn hstmt, issue_of_decode_ok (Request.decode_of_op_eq_three hop)]

/-- A branch that is taken goes to its target. -/
theorem step_of_br_taken {s : State} {tag : Tag} {target : Nat} (hturn : nextTurn s.agenda = .host)
    (hstmt : s.launch.program[s.hpc]? = some (.br tag target)) (htaken : branchTaken s.resp tag = true) :
    step s = .next { s with hpc := target, agenda := s.agenda.tail } := by
  simp [step_of_stmt hturn hstmt, runStmt, htaken]

/-- A branch that is not taken goes on to the next statement. -/
theorem step_of_br_not_taken {s : State} {tag : Tag} {target : Nat} (hturn : nextTurn s.agenda = .host)
    (hstmt : s.launch.program[s.hpc]? = some (.br tag target)) (hnot : branchTaken s.resp tag = false) :
    step s = .next { s with hpc := s.hpc + 1, agenda := s.agenda.tail } := by
  simp [step_of_stmt hturn hstmt, runStmt, hnot]

/-- DECODE_FRAME never says `NotReady`, so its answer ends the loop whether the frame is valid or not. -/
theorem branchTaken_decodeFrame_notReady (f : Frame) : branchTaken (some (.result (decodeFrame f))) .notReady = false := by
  have hne := decodeFrame_ne_notReady f
  cases hresult : decodeFrame f with
  | ok | checksumError => rfl
  | notReady => exact absurd hresult hne

/-- A round that finds fewer than 9 bytes. -/
theorem core_run_wait_of_short {s : State} (hwait : s.atWait) (hshort : s.chan.rx.length < 9)
    (hpoll : nextTurn s.agenda = .host) (hbranch : nextTurn s.agenda.tail = .host) (n : Nat) :
    Host.Core.run core (n + 2) s
      = Host.Core.run core n (s.waiting (some (.result .notReady)) s.agenda.tail.tail) := by
  have hfirst := (step_of_atWait hwait hpoll).trans (exec_poll_of_short hwait.isOpen hshort)
  rw [core_run_succ (n + 1) hfirst]
  exact core_run_succ n (step_of_br_taken hbranch hwait.branch rfl)

/-- A round that finds 9 bytes, no read failing. -/
theorem core_run_wait_of_nine_le {s : State} (hwait : s.atWait) (hnine : 9 ≤ s.chan.rx.length)
    (hread : s.launch.readCanFail = false) (hpoll : nextTurn s.agenda = .host) (hbranch : nextTurn s.agenda.tail = .host)
    (n : Nat) :
    Host.Core.run core (n + 2) s
      = Host.Core.run core n { s.pollTaken with hpc := s.hpc + 2, agenda := s.agenda.tail.tail } := by
  have hfirst := (step_of_atWait hwait hpoll).trans (exec_poll_of_nine_le_of_readsSucceed hwait.isOpen hnine hread)
  rw [core_run_succ (n + 1) hfirst]
  exact core_run_succ n (step_of_br_not_taken hbranch hwait.branch (branchTaken_decodeFrame_notReady _))

/-- Any number of rounds that find fewer than 9 bytes, by induction on it: a round leaves the next one a state that differs from its
own in the response and the agenda alone. -/
theorem core_run_waits_of_short (k : Nat) {s : State} (hwait : s.atWait) (hshort : s.chan.rx.length < 9)
    (hturns : ∀ j < 2 * k, nextTurn (s.agenda.drop j) = .host) :
    ∃ r, ∀ n, Host.Core.run core (2 * k + n) s = Host.Core.run core n (s.waiting r (s.agenda.drop (2 * k))) := by
  induction k generalizing s with
  | zero => exact ⟨s.resp, fun n => by simp [State.waiting]⟩
  | succ k ih =>
    have hround := core_run_wait_of_short hwait hshort (hturns 0 (by omega)) (by simpa using hturns 1 (by omega))
    obtain ⟨r, hrest⟩ := ih (hwait.waiting (some (.result .notReady)) s.agenda.tail.tail) hshort
      fun j hj => by simpa [State.waiting] using hturns (j + 2) (by omega)
    refine ⟨r, fun n => ?_⟩
    calc Host.Core.run core (2 * (k + 1) + n) s
      _ = Host.Core.run core (2 * k + n + 2) s := by congr 1; omega
      _ = Host.Core.run core (2 * k + n) (s.waiting (some (.result .notReady)) s.agenda.tail.tail) := hround _
      _ = Host.Core.run core n (s.waiting r (s.agenda.tail.tail.drop (2 * k))) := hrest n
      _ = Host.Core.run core n (s.waiting r (s.agenda.drop (2 * (k + 1)))) := by simp [Nat.mul_succ]

/-- Settles O36: the empty agenda is the host's turn at every step, so all `k` rounds come back to where they began. -/
theorem waitGoesOnWithoutArrivals : Obligations.WaitGoesOnWithoutArrivals := by
  intro k s q hop hstmt hbranch hopen hagenda hshort
  obtain ⟨r, hrun⟩ := core_run_waits_of_short k (s := s) ⟨⟨q, hop, hstmt⟩, hbranch, hopen⟩ hshort
    fun j _ => by simp [hagenda, nextTurn]
  exact ⟨_, hrun 0, rfl, rfl⟩

/-- Settles O35: after the `k` short rounds come the arrival, delivered whole because it fits, and the round that finds 9 bytes. -/
theorem waitEndsAfterTheArrival : Obligations.WaitEndsAfterTheArrival := by
  intro k s q bytes keep hop hstmt hbranch hopen hread hagenda hshort hnine hfits
  have hwait : s.atWait := ⟨⟨q, hop, hstmt⟩, hbranch, hopen⟩
  have hturns : ∀ j < 2 * k, nextTurn (s.agenda.drop j) = .host := by
    intro j hj
    simp [hagenda, nextTurn, List.headD_eq_head?_getD, List.head?_drop, List.getElem?_append, hj]
  obtain ⟨r, hshortRounds⟩ := core_run_waits_of_short k hwait hshort hturns
  have hleft : s.agenda.drop (2 * k) = [.arrive bytes keep] := by simp [hagenda]
  rw [hleft] at hshortRounds
  let arrived := (s.waiting r []).arrive bytes keep
  have harrival : step (s.waiting r [.arrive bytes keep]) = .next arrived := step_of_nextTurn rfl
  have hrx : arrived.chan.rx = s.chan.rx ++ bytes := congrArg (s.chan.rx ++ ·) (Launch.deliver_of_fits keep hfits)
  have hlastRound := core_run_wait_of_nine_le (s := arrived) (hwait.congr rfl rfl rfl)
    (by rwa [hrx, List.length_append]) hread rfl rfl 0
  exact ⟨_, (hshortRounds 3).trans ((core_run_succ 2 harrival).trans hlastRound), rfl, congrArg (List.drop 9) hrx, rfl⟩

end Sys2Proof.Machine
end
